-- ==== Sys2Proof/Word.lean ====
section
/-! DEFINITION. The word types of CORE (spec/00_scope.md R4, R5, R6). Every value is an unsigned bit vector of the
width the spec gives it; `++` on bit vectors is the spec's `a ++ b` (a in the high bits, R5). -/

namespace Sys2Proof

/-- An 8-bit value: a V register, a memory byte, a timer, an immediate NN (R4). -/
abbrev Byte := BitVec 8

/-- A 16-bit value: pc, I, a return address (R4). -/
abbrev Addr := BitVec 16

/-- A fetched 16-bit instruction word `op` (R5, R50). -/
abbrev OpWord := BitVec 16

/-- A 4-bit field of an instruction word: a register number X or Y, or the row count N (R53). -/
abbrev Nibble := BitVec 4

end Sys2Proof
end

