-- ==== Sys2Proof/Config.lean ====
section
/-! DEFINITION. What an implementation of CORE fixes (spec/00_scope.md R4; spec/92_eei_decisions.md) and the values the
spec leaves open. The parameters marked OPEN that CORE reads, STACK_DEPTH and FONT, are the fields of `Config`, which
a state carries as an argument no operation writes (log 9); STEPS_PER_FRAME is the host's and is an argument of
`frame` in Machine/HostOps.lean. The free values have no body: nothing can be proved of which byte or word they are. -/

namespace Sys2Proof

/-- The OPEN parameters of R4 that CORE reads. -/
structure Config where
  /-- STACK_DEPTH, the bound of the call stack (R4, R14; D2): a natural at least 1. -/
  stackDepth : Nat
  /-- FONT, 16 glyphs of 5 bytes, glyph d at offsets 5d to 5d+4 (R4, R21; D18). -/
  font : Vector Byte 80
  deriving DecidableEq, Repr

/-- The default FONT table of R21, glyphs 0 to 7. PRESUMED (log 7): the spec takes it from general knowledge. -/
def Config.defaultFontLow : Vector Byte 40 :=
  #v[0xF0, 0x90, 0x90, 0x90, 0xF0,  0x20, 0x60, 0x20, 0x20, 0x70,
     0xF0, 0x10, 0xF0, 0x80, 0xF0,  0xF0, 0x10, 0xF0, 0x10, 0xF0,
     0x90, 0x90, 0xF0, 0x10, 0x10,  0xF0, 0x80, 0xF0, 0x10, 0xF0,
     0xF0, 0x80, 0xF0, 0x90, 0xF0,  0xF0, 0x10, 0x20, 0x40, 0x40]

/-- The default FONT table of R21, glyphs 8 to F. PRESUMED (log 7). -/
def Config.defaultFontHigh : Vector Byte 40 :=
  #v[0xF0, 0x90, 0xF0, 0x90, 0xF0,  0xF0, 0x90, 0xF0, 0x10, 0xF0,
     0xF0, 0x90, 0xF0, 0x90, 0x90,  0xE0, 0x90, 0xE0, 0x90, 0xE0,
     0xF0, 0x80, 0x80, 0x80, 0xF0,  0xE0, 0x90, 0x90, 0x90, 0xE0,
     0xF0, 0x80, 0xF0, 0x80, 0xF0,  0xF0, 0x80, 0xF0, 0x80, 0x80]

/-- The spec's defaults: STACK_DEPTH 16 (D2) and the FONT table of R21 (D18). PRESUMED (logs 7, 8). -/
def Config.default : Config where
  stackDepth := 16
  font := Config.defaultFontLow ++ Config.defaultFontHigh

/-- FREE VALUE (log 3): the byte the host puts on port `rand_in` (R22, D10: "a claim must hold for every value"),
one for each number of the counter `State.draws`. -/
opaque Config.randByte : Nat → Byte

/-- FREE VALUE (log 4): `FR.op` when the fetch itself faulted, which is unspecified (R23, D5), one for each number of
the counter `State.draws`. -/
opaque Config.fetchFaultWord : Nat → OpWord

/-- MEM_SIZE: 4096 bytes, addresses 0x000 to 0xFFF (R4). -/
def memSize : Nat := 4096

/-- PC_RESET and PROGRAM_BASE: 0x200 (R4). -/
def programBase : Nat := 0x200

/-- The length of FONT: 16 glyphs of 5 bytes at FONT_BASE 0x000 (R4). -/
def fontSize : Nat := 80

/-- MAX_ROM: 4096 − 512 = 3584 bytes (R4). -/
def maxRom : Nat := 3584

/-- DISPLAY_W: 64 columns (R4). -/
def displayW : Nat := 64

/-- DISPLAY_H: 32 rows (R4). -/
def displayH : Nat := 32

end Sys2Proof
end

