-- ==== Sys2Proof/Syntax.lean ====
section
/-! DEFINITION. The instruction set: one constructor for each of the 34 rows of spec/opcode_table.json
(spec/30_encoding.md R56), in the table's order. Operands are the fields of R53 at their encoded width, so that every
term is an instruction a word can encode (R60: "any value 0x0-0xF is legal, VF included"). The Y of 8XY6 and 8XYE is
kept, since the word carries it, and ignored by their meanings (R61). -/

namespace Sys2Proof

/-- The 34 instructions of R56. `x`, `y` are register numbers, `n` a row count, `nn` an 8-bit immediate, `nnn` a
12-bit absolute address (R60). -/
inductive Instr where
  | cls                              -- 00E0
  | ret                              -- 00EE
  | jp (nnn : BitVec 12)             -- 1NNN
  | call (nnn : BitVec 12)           -- 2NNN
  | seImm (x : Nibble) (nn : Byte)   -- 3XNN
  | sneImm (x : Nibble) (nn : Byte)  -- 4XNN
  | seReg (x y : Nibble)             -- 5XY0
  | ldImm (x : Nibble) (nn : Byte)   -- 6XNN
  | addImm (x : Nibble) (nn : Byte)  -- 7XNN
  | ldReg (x y : Nibble)             -- 8XY0
  | orReg (x y : Nibble)             -- 8XY1
  | andReg (x y : Nibble)            -- 8XY2
  | xorReg (x y : Nibble)            -- 8XY3
  | addReg (x y : Nibble)            -- 8XY4
  | sub (x y : Nibble)               -- 8XY5
  | shr (x y : Nibble)               -- 8XY6
  | subn (x y : Nibble)              -- 8XY7
  | shl (x y : Nibble)               -- 8XYE
  | sneReg (x y : Nibble)            -- 9XY0
  | ldI (nnn : BitVec 12)            -- ANNN
  | jpV0 (nnn : BitVec 12)           -- BNNN
  | rnd (x : Nibble) (nn : Byte)     -- CXNN
  | drw (x y n : Nibble)             -- DXYN
  | skp (x : Nibble)                 -- EX9E
  | sknp (x : Nibble)                -- EXA1
  | ldVxDt (x : Nibble)              -- FX07
  | ldVxK (x : Nibble)               -- FX0A
  | ldDtVx (x : Nibble)              -- FX15
  | ldStVx (x : Nibble)              -- FX18
  | addI (x : Nibble)                -- FX1E
  | ldF (x : Nibble)                 -- FX29
  | ldB (x : Nibble)                 -- FX33
  | storeRegs (x : Nibble)           -- FX55
  | loadRegs (x : Nibble)            -- FX65
  deriving DecidableEq, Repr

end Sys2Proof
end

