-- ==== Sys2Proof/WellFormed.lean ====
section
/-! DEFINITION. What is well formed, as decidable checks. A term of `Instr` has no ill-formed case: each operand has
exactly the width of its field, and R60 makes every value of a field legal. What can be ill formed is a raw word
(R56, R58), a row of the opcode map (R56), a configuration (R4) and a ROM (R202); each has its check here, and
Sys2Proof/Tests/Slice0.lean shows a term each check refuses. -/

namespace Sys2Proof

/-- The six formats of R54. -/
inductive Format where
  | fixed | nnn | xnn | xys | xyn | xs
  deriving DecidableEq, Repr

/-- A row of the opcode map of R56: a word selects the row when `op AND mask = bits`. -/
structure OpcodeRow where
  pattern : String
  format : Format
  bits : OpWord
  mask : OpWord
  deriving DecidableEq, Repr

/-- The row of R56 an instruction belongs to. -/
def Instr.row : Instr → OpcodeRow
  | .cls => ⟨"00E0", .fixed, 0x00E0#16, 0xFFFF#16⟩             -- CLS
  | .ret => ⟨"00EE", .fixed, 0x00EE#16, 0xFFFF#16⟩             -- RET
  | .jp _ => ⟨"1NNN", .nnn, 0x1000#16, 0xF000#16⟩              -- JP NNN
  | .call _ => ⟨"2NNN", .nnn, 0x2000#16, 0xF000#16⟩            -- CALL NNN
  | .seImm _ _ => ⟨"3XNN", .xnn, 0x3000#16, 0xF000#16⟩         -- SE VX, NN
  | .sneImm _ _ => ⟨"4XNN", .xnn, 0x4000#16, 0xF000#16⟩        -- SNE VX, NN
  | .seReg _ _ => ⟨"5XY0", .xys, 0x5000#16, 0xF00F#16⟩         -- SE VX, VY
  | .ldImm _ _ => ⟨"6XNN", .xnn, 0x6000#16, 0xF000#16⟩         -- LD VX, NN
  | .addImm _ _ => ⟨"7XNN", .xnn, 0x7000#16, 0xF000#16⟩        -- ADD VX, NN
  | .ldReg _ _ => ⟨"8XY0", .xys, 0x8000#16, 0xF00F#16⟩         -- LD VX, VY
  | .orReg _ _ => ⟨"8XY1", .xys, 0x8001#16, 0xF00F#16⟩         -- OR VX, VY
  | .andReg _ _ => ⟨"8XY2", .xys, 0x8002#16, 0xF00F#16⟩        -- AND VX, VY
  | .xorReg _ _ => ⟨"8XY3", .xys, 0x8003#16, 0xF00F#16⟩        -- XOR VX, VY
  | .addReg _ _ => ⟨"8XY4", .xys, 0x8004#16, 0xF00F#16⟩        -- ADD VX, VY
  | .sub _ _ => ⟨"8XY5", .xys, 0x8005#16, 0xF00F#16⟩           -- SUB VX, VY
  | .shr _ _ => ⟨"8XY6", .xys, 0x8006#16, 0xF00F#16⟩           -- SHR VX, VY
  | .subn _ _ => ⟨"8XY7", .xys, 0x8007#16, 0xF00F#16⟩          -- SUBN VX, VY
  | .shl _ _ => ⟨"8XYE", .xys, 0x800E#16, 0xF00F#16⟩           -- SHL VX, VY
  | .sneReg _ _ => ⟨"9XY0", .xys, 0x9000#16, 0xF00F#16⟩        -- SNE VX, VY
  | .ldI _ => ⟨"ANNN", .nnn, 0xA000#16, 0xF000#16⟩             -- LD I, NNN
  | .jpV0 _ => ⟨"BNNN", .nnn, 0xB000#16, 0xF000#16⟩            -- JP V0, NNN
  | .rnd _ _ => ⟨"CXNN", .xnn, 0xC000#16, 0xF000#16⟩           -- RND VX, NN
  | .drw _ _ _ => ⟨"DXYN", .xyn, 0xD000#16, 0xF000#16⟩         -- DRW VX, VY, N
  | .skp _ => ⟨"EX9E", .xs, 0xE09E#16, 0xF0FF#16⟩              -- SKP VX
  | .sknp _ => ⟨"EXA1", .xs, 0xE0A1#16, 0xF0FF#16⟩             -- SKNP VX
  | .ldVxDt _ => ⟨"FX07", .xs, 0xF007#16, 0xF0FF#16⟩           -- LD VX, DT
  | .ldVxK _ => ⟨"FX0A", .xs, 0xF00A#16, 0xF0FF#16⟩            -- LD VX, K
  | .ldDtVx _ => ⟨"FX15", .xs, 0xF015#16, 0xF0FF#16⟩           -- LD DT, VX
  | .ldStVx _ => ⟨"FX18", .xs, 0xF018#16, 0xF0FF#16⟩           -- LD ST, VX
  | .addI _ => ⟨"FX1E", .xs, 0xF01E#16, 0xF0FF#16⟩             -- ADD I, VX
  | .ldF _ => ⟨"FX29", .xs, 0xF029#16, 0xF0FF#16⟩              -- LD F, VX
  | .ldB _ => ⟨"FX33", .xs, 0xF033#16, 0xF0FF#16⟩              -- LD B, VX
  | .storeRegs _ => ⟨"FX55", .xs, 0xF055#16, 0xF0FF#16⟩        -- LD [I], VX
  | .loadRegs _ => ⟨"FX65", .xs, 0xF065#16, 0xF0FF#16⟩         -- LD VX, [I]

/-- One instruction of each of rows 1 to 9 of R56 (its operands play no part in `row`). -/
def oneOfRows1To9 : List Instr :=
  [.cls, .ret, .jp 0, .call 0, .seImm 0 0, .sneImm 0 0, .seReg 0 0, .ldImm 0 0, .addImm 0 0]

/-- One instruction of each of rows 10 to 18 of R56. -/
def oneOfRows10To18 : List Instr :=
  [.ldReg 0 0, .orReg 0 0, .andReg 0 0, .xorReg 0 0, .addReg 0 0, .sub 0 0, .shr 0 0, .subn 0 0, .shl 0 0]

/-- One instruction of each of rows 19 to 25 of R56. -/
def oneOfRows19To25 : List Instr :=
  [.sneReg 0 0, .ldI 0, .jpV0 0, .rnd 0 0, .drw 0 0 0, .skp 0, .sknp 0]

/-- One instruction of each of rows 26 to 34 of R56. -/
def oneOfRows26To34 : List Instr :=
  [.ldVxDt 0, .ldVxK 0, .ldDtVx 0, .ldStVx 0, .addI 0, .ldF 0, .ldB 0, .storeRegs 0, .loadRegs 0]

/-- One instruction of each row of R56, in the table's order. -/
def oneOfEachRow : List Instr := oneOfRows1To9 ++ (oneOfRows10To18 ++ (oneOfRows19To25 ++ oneOfRows26To34))

/-- The opcode map: the 34 rows of R56, in order. -/
def opcodeRows : List OpcodeRow := oneOfEachRow.map Instr.row

/-- A word selects a row when `op AND mask = match` (R56). -/
def OpcodeRow.selects (r : OpcodeRow) (op : OpWord) : Bool := op &&& r.mask == r.bits

/-- A row is well formed when its fixed bits lie inside its mask and the mask is its format's (R54). -/
def OpcodeRow.wellFormed (r : OpcodeRow) : Bool :=
  r.bits &&& r.mask == r.bits &&
    r.mask == (match r.format with
      | .fixed => 0xFFFF#16
      | .nnn | .xnn | .xyn => 0xF000#16
      | .xys => 0xF00F#16
      | .xs => 0xF0FF#16)

/-- A word is well formed when it selects a row of R56; every other word is in the unrecognised space of R58. -/
def wellFormedWord (op : OpWord) : Bool := opcodeRows.any (·.selects op)

/-- STACK_DEPTH is a natural at least 1 (spec/92_eei_decisions.md, its table of parameters). -/
def Config.wellFormed (c : Config) : Bool := decide (1 ≤ c.stackDepth)

/-- A ROM fits when its length is at most MAX_ROM (R4, R202, R203). -/
def romFits (rom : List Byte) : Bool := decide (rom.length ≤ maxRom)

end Sys2Proof
end

