-- ==== Sys2Proof/Decode.lean ====
section
/-! DEFINITION. Decoding (spec/30_encoding.md R50, R53, R57, R58), the encoder written from the same patterns
(R54, R56), and the assembler syntax (R62, R63). Decoding is total: a byte list gives an instruction and the bytes
after it, or a named error. -/

namespace Sys2Proof

/-- Why bytes do not decode. -/
inductive DecodeError where
  /-- The word matches no row of R56 (R57, R58); a step that meets it faults with UnknownOpcode. -/
  | unknownOpcode (op : OpWord)
  /-- Fewer than two bytes. No step raises it: a fetch always reads two bytes or faults (R35). -/
  | truncated
  deriving DecidableEq, Repr

/-! ## Fields (R53) -/

/-- The top nibble `op[15:12]`. -/
def OpWord.top (op : OpWord) : Nibble := op.extractLsb' 12 4

/-- `X = op[11:8]`. -/
def OpWord.x (op : OpWord) : Nibble := op.extractLsb' 8 4

/-- `Y = op[7:4]`. -/
def OpWord.y (op : OpWord) : Nibble := op.extractLsb' 4 4

/-- `N = op[3:0]`. -/
def OpWord.n (op : OpWord) : Nibble := op.extractLsb' 0 4

/-- `NN = op[7:0]`. -/
def OpWord.nn (op : OpWord) : Byte := op.extractLsb' 0 8

/-- `NNN = op[11:0]`. -/
def OpWord.nnn (op : OpWord) : BitVec 12 := op.extractLsb' 0 12

/-! ## Decode (R57): first on the top nibble, then on the group's sub-operation field -/

/-- Group 0x0: only the two whole words 00E0 and 00EE. -/
def decodeGroup0 (op : OpWord) : Option Instr :=
  if op = 0x00E0#16 then some .cls
  else if op = 0x00EE#16 then some .ret
  else none

/-- Group 0x8: the sub-operation is `op[3:0]`. -/
def decodeGroup8 (op : OpWord) : Option Instr :=
  match op.n with
  | 0x0#4 => some (.ldReg op.x op.y)
  | 0x1#4 => some (.orReg op.x op.y)
  | 0x2#4 => some (.andReg op.x op.y)
  | 0x3#4 => some (.xorReg op.x op.y)
  | 0x4#4 => some (.addReg op.x op.y)
  | 0x5#4 => some (.sub op.x op.y)
  | 0x6#4 => some (.shr op.x op.y)
  | 0x7#4 => some (.subn op.x op.y)
  | 0xE#4 => some (.shl op.x op.y)
  | _ => none

/-- Group 0xE: the sub-operation is `op[7:0]`. -/
def decodeGroupE (op : OpWord) : Option Instr :=
  match op.nn with
  | 0x9E#8 => some (.skp op.x)
  | 0xA1#8 => some (.sknp op.x)
  | _ => none

/-- Group 0xF: the sub-operation is `op[7:0]`. -/
def decodeGroupF (op : OpWord) : Option Instr :=
  match op.nn with
  | 0x07#8 => some (.ldVxDt op.x)
  | 0x0A#8 => some (.ldVxK op.x)
  | 0x15#8 => some (.ldDtVx op.x)
  | 0x18#8 => some (.ldStVx op.x)
  | 0x1E#8 => some (.addI op.x)
  | 0x29#8 => some (.ldF op.x)
  | 0x33#8 => some (.ldB op.x)
  | 0x55#8 => some (.storeRegs op.x)
  | 0x65#8 => some (.loadRegs op.x)
  | _ => none

/-- `Decode(op)` of R57; `none` is UNKNOWN. The low nibble of 5XY0 and 9XY0 must be 0 (D12). -/
def decodeWord (op : OpWord) : Option Instr :=
  match op.top with
  | 0x0#4 => decodeGroup0 op
  | 0x1#4 => some (.jp op.nnn)
  | 0x2#4 => some (.call op.nnn)
  | 0x3#4 => some (.seImm op.x op.nn)
  | 0x4#4 => some (.sneImm op.x op.nn)
  | 0x5#4 => if op.n = 0x0#4 then some (.seReg op.x op.y) else none
  | 0x6#4 => some (.ldImm op.x op.nn)
  | 0x7#4 => some (.addImm op.x op.nn)
  | 0x8#4 => decodeGroup8 op
  | 0x9#4 => if op.n = 0x0#4 then some (.sneReg op.x op.y) else none
  | 0xA#4 => some (.ldI op.nnn)
  | 0xB#4 => some (.jpV0 op.nnn)
  | 0xC#4 => some (.rnd op.x op.nn)
  | 0xD#4 => some (.drw op.x op.y op.n)
  | 0xE#4 => decodeGroupE op
  | 0xF#4 => decodeGroupF op
  | _ => none  -- no 4-bit value is left

/-- The word of two consecutive bytes: big-endian, the lower address in the high byte (R35, R36). -/
def wordOfBytes (high low : Byte) : OpWord := high ++ low

/-- Decode the first instruction of a byte list: two bytes always (R50), and the bytes that follow. -/
def decode : List Byte → Except DecodeError (Instr × List Byte)
  | high :: low :: rest =>
    match decodeWord (wordOfBytes high low) with
    | some i => .ok (i, rest)
    | none => .error (.unknownOpcode (wordOfBytes high low))
  | _ => .error .truncated

/-! ## Encode (R54, R56): each pattern written out from its most significant nibble -/

/-- The word of an instruction. -/
def encode : Instr → OpWord
  | .cls => 0x00E0#16
  | .ret => 0x00EE#16
  | .jp nnn => 0x1#4 ++ nnn
  | .call nnn => 0x2#4 ++ nnn
  | .seImm x nn => 0x3#4 ++ x ++ nn
  | .sneImm x nn => 0x4#4 ++ x ++ nn
  | .seReg x y => 0x5#4 ++ x ++ y ++ 0x0#4
  | .ldImm x nn => 0x6#4 ++ x ++ nn
  | .addImm x nn => 0x7#4 ++ x ++ nn
  | .ldReg x y => 0x8#4 ++ x ++ y ++ 0x0#4
  | .orReg x y => 0x8#4 ++ x ++ y ++ 0x1#4
  | .andReg x y => 0x8#4 ++ x ++ y ++ 0x2#4
  | .xorReg x y => 0x8#4 ++ x ++ y ++ 0x3#4
  | .addReg x y => 0x8#4 ++ x ++ y ++ 0x4#4
  | .sub x y => 0x8#4 ++ x ++ y ++ 0x5#4
  | .shr x y => 0x8#4 ++ x ++ y ++ 0x6#4
  | .subn x y => 0x8#4 ++ x ++ y ++ 0x7#4
  | .shl x y => 0x8#4 ++ x ++ y ++ 0xE#4
  | .sneReg x y => 0x9#4 ++ x ++ y ++ 0x0#4
  | .ldI nnn => 0xA#4 ++ nnn
  | .jpV0 nnn => 0xB#4 ++ nnn
  | .rnd x nn => 0xC#4 ++ x ++ nn
  | .drw x y n => 0xD#4 ++ x ++ y ++ n
  | .skp x => 0xE#4 ++ x ++ 0x9E#8
  | .sknp x => 0xE#4 ++ x ++ 0xA1#8
  | .ldVxDt x => 0xF#4 ++ x ++ 0x07#8
  | .ldVxK x => 0xF#4 ++ x ++ 0x0A#8
  | .ldDtVx x => 0xF#4 ++ x ++ 0x15#8
  | .ldStVx x => 0xF#4 ++ x ++ 0x18#8
  | .addI x => 0xF#4 ++ x ++ 0x1E#8
  | .ldF x => 0xF#4 ++ x ++ 0x29#8
  | .ldB x => 0xF#4 ++ x ++ 0x33#8
  | .storeRegs x => 0xF#4 ++ x ++ 0x55#8
  | .loadRegs x => 0xF#4 ++ x ++ 0x65#8

/-- The high byte of a word, the one at the lower address (R36). -/
def highByte (op : OpWord) : Byte := op.extractLsb' 8 8

/-- The low byte of a word. -/
def lowByte (op : OpWord) : Byte := op.extractLsb' 0 8

/-- The two bytes of an instruction as memory holds them, the lower address first. -/
def encodeBytes (i : Instr) : List Byte := [highByte (encode i), lowByte (encode i)]

/-- The host's question: the instruction the decoder reads from a table word (opcode_table.json numbers bit 0 as the
least significant bit of the one 16-bit word; the bits above `nbits` are 0). -/
def decodeTableWord (nbits w : Nat) : Option Instr :=
  let op : OpWord := BitVec.ofNat 16 (w % 2 ^ nbits)
  match decode [highByte op, lowByte op] with
  | .ok (i, _) => some i
  | .error _ => none

/-! ## Assembler syntax (R62, R63; D20) -/

/-- One upper-case hex digit. -/
def hexDigit (n : Nibble) : String :=
  ["0", "1", "2", "3", "4", "5", "6", "7", "8", "9", "A", "B", "C", "D", "E", "F"].getD n.toNat ""

/-- A register name, V0 to VF. -/
def asmReg (x : Nibble) : String := "V" ++ hexDigit x

/-- An NN immediate: two hex digits. -/
def asmByte (nn : Byte) : String := hexDigit (nn.extractLsb' 4 4) ++ hexDigit (nn.extractLsb' 0 4)

/-- An NNN address: three hex digits. -/
def asmAddr (nnn : BitVec 12) : String := hexDigit (nnn.extractLsb' 8 4) ++ asmByte (nnn.extractLsb' 0 8)

/-- The line of R62 for an instruction, in the mnemonics of R56: `pre` stands before an immediate (nothing or `0x`), and
`addr` writes an NNN operand (its digits or a label). -/
def Instr.asm (pre : String) (addr : BitVec 12 → String) : Instr → String
  | .cls => "CLS"
  | .ret => "RET"
  | .jp nnn => "JP " ++ addr nnn
  | .call nnn => "CALL " ++ addr nnn
  | .seImm x nn => "SE " ++ asmReg x ++ ", " ++ pre ++ asmByte nn
  | .sneImm x nn => "SNE " ++ asmReg x ++ ", " ++ pre ++ asmByte nn
  | .seReg x y => "SE " ++ asmReg x ++ ", " ++ asmReg y
  | .ldImm x nn => "LD " ++ asmReg x ++ ", " ++ pre ++ asmByte nn
  | .addImm x nn => "ADD " ++ asmReg x ++ ", " ++ pre ++ asmByte nn
  | .ldReg x y => "LD " ++ asmReg x ++ ", " ++ asmReg y
  | .orReg x y => "OR " ++ asmReg x ++ ", " ++ asmReg y
  | .andReg x y => "AND " ++ asmReg x ++ ", " ++ asmReg y
  | .xorReg x y => "XOR " ++ asmReg x ++ ", " ++ asmReg y
  | .addReg x y => "ADD " ++ asmReg x ++ ", " ++ asmReg y
  | .sub x y => "SUB " ++ asmReg x ++ ", " ++ asmReg y
  | .shr x y => "SHR " ++ asmReg x ++ ", " ++ asmReg y
  | .subn x y => "SUBN " ++ asmReg x ++ ", " ++ asmReg y
  | .shl x y => "SHL " ++ asmReg x ++ ", " ++ asmReg y
  | .sneReg x y => "SNE " ++ asmReg x ++ ", " ++ asmReg y
  | .ldI nnn => "LD I, " ++ addr nnn
  | .jpV0 nnn => "JP V0, " ++ addr nnn
  | .rnd x nn => "RND " ++ asmReg x ++ ", " ++ pre ++ asmByte nn
  | .drw x y n => "DRW " ++ asmReg x ++ ", " ++ asmReg y ++ ", " ++ pre ++ hexDigit n
  | .skp x => "SKP " ++ asmReg x
  | .sknp x => "SKNP " ++ asmReg x
  | .ldVxDt x => "LD " ++ asmReg x ++ ", DT"
  | .ldVxK x => "LD " ++ asmReg x ++ ", K"
  | .ldDtVx x => "LD DT, " ++ asmReg x
  | .ldStVx x => "LD ST, " ++ asmReg x
  | .addI x => "ADD I, " ++ asmReg x
  | .ldF x => "LD F, " ++ asmReg x
  | .ldB x => "LD B, " ++ asmReg x
  | .storeRegs x => "LD [I], " ++ asmReg x
  | .loadRegs x => "LD " ++ asmReg x ++ ", [I]"

/-- The other line R62 allows: `SHR VX` and `SHL VX`, with Y = 0. -/
def Instr.asmShort : Instr → Option String
  | .shr x 0x0#4 => some ("SHR " ++ asmReg x)
  | .shl x 0x0#4 => some ("SHL " ++ asmReg x)
  | _ => none

/-- A line of R62 stands for a word, where each label stands for its 12-bit address: the word's instruction is written
so, with its immediates in hex with or without `0x`. Each line is one word of R56 (R63). -/
def assembles (labels : List (String × BitVec 12)) (line : String) (op : OpWord) : Prop :=
  ∃ (i : Instr) (pre : String) (addr : BitVec 12 → String),
    encode i = op ∧ pre ∈ ["", "0x"] ∧ (∀ a, addr a = pre ++ asmAddr a ∨ (addr a, a) ∈ labels) ∧
    (i.asm pre addr = line ∨ i.asmShort = some line)

/-- The source items of R63: an instruction line, or raw data (`DB`) copied into memory as it stands. -/
inductive SourceItem where
  | instr (i : Instr)
  | db (b : Byte)
  deriving DecidableEq, Repr

/-- The bytes of a program's items, in order (R36, R63). -/
def assemble : List SourceItem → List Byte
  | [] => []
  | .instr i :: rest => encodeBytes i ++ assemble rest
  | .db b :: rest => b :: assemble rest

end Sys2Proof
end

