-- ==== Sys2Proof/Machine/Flags.lean ====
section
/-! DEFINITION. Every flag computation of spec/10_state.md R11, each as a truth value that VF then holds as 1 or 0.
The collision flag of DXYN is computed while drawing (Machine/Ops.lean). -/

namespace Sys2Proof.Machine.Flags

/-- 8XY4: carry, `V[X] + V[Y] > 255` on exact naturals (R6, R106). -/
def carry (a b : Byte) : Bool := decide (a.toNat + b.toNat > 255)

/-- 8XY5 and, with the operands exchanged, 8XY7: no borrow, strict: `a > b` (R107, R109). -/
def noBorrow (a b : Byte) : Bool := decide (a.toNat > b.toNat)

/-- 8XY6: the bit shifted out, `V[X] AND 1` (R108). -/
def shiftedOutLow (a : Byte) : Bool := a.getLsbD 0

/-- 8XYE: the bit shifted out, `V[X] >> 7` (R110). -/
def shiftedOutHigh (a : Byte) : Bool := a.getLsbD 7

/-- FX1E: index overflow, `I + V[X] > 0xFFF` on exact naturals (R131). -/
def indexOverflow (i : Addr) (b : Byte) : Bool := decide (i.toNat + b.toNat > 0xFFF)

/-- The byte VF holds for a flag: 1 or 0 (R11). -/
def toByte (f : Bool) : Byte := if f then 1 else 0

end Sys2Proof.Machine.Flags
end

