-- ==== Sys2Proof/Machine/State.lean ====
section
/-! DEFINITION. The state of CORE (spec/10_state.md R10-R23), as plain data, and its value after reset
(spec/70_reset_and_hazards.md R201, R202). -/

namespace Sys2Proof.Machine

/-- The spec's faults (R171, class "fault"). A step that raises one is not a stop of the model: R172 gives its entry,
so the step answers a NEXT state with RS = FAULTED and the fault in FR (log 1). No step and no meaning ever answers
`Host.Outcome.fault`; the type names the kinds of FR and of the port step_result. Safe: nothing is claimed of a
machine that goes on where this one is FAULTED. -/
inductive Fault where
  /-- Raised by a step whose fetched word matches no row of R56 (R57, R58). Safe: fault entry, as R172 says. -/
  | unknownOpcode
  /-- Raised by a fetch with pc > 0xFFE (R35) and by DXYN, FX33, FX55, FX65 at an address above 0xFFF (R33, R34).
  Safe: fault entry, as R172 says. -/
  | addressOutOfRange
  /-- Raised by 2NNN with a full stack (R14, R82). Safe: fault entry, as R172 says. -/
  | stackOverflow
  /-- Raised by EX9E and EXA1 with V[X] > 0xF (R150, R151). Safe: fault entry, as R172 says. -/
  | keyIndexOutOfRange
  deriving DecidableEq, Repr

/-- Why an instruction has no meaning in this model. -/
inductive Refusal where
  /-- Raised by `exec`'s arm of an instruction that is not modelled yet (there is none). Safe: the model stops. -/
  | notModelled (mnemonic : String)
  deriving DecidableEq, Repr

/-- The fault record FR (R23). -/
structure FaultRecord where
  /-- `FR.kind`. -/
  kind : Fault
  /-- `FR.addr`, the address of the faulting instruction, pc_fetch. -/
  addr : Addr
  /-- `FR.op`, the instruction word; a free value when the fetch itself faulted (log 4). -/
  op : OpWord
  deriving DecidableEq, Repr

/-- The run state RS (R20) with FR, which holds a value exactly while RS = FAULTED (R23; log 11). -/
inductive RunState where
  | uninit
  | ready
  | faulted (fr : FaultRecord)
  deriving DecidableEq, Repr

/-- The values of the port step_result (R24, R176). -/
inductive StepResult where
  | ok
  | okEmptyStackReturn
  | fault (kind : Fault)
  | refusedNotInitialized
  deriving DecidableEq, Repr

/-- The display buffer FB: 32 rows (y) of 64 one-bit pixels (x), true = on (R17). -/
abbrev Display := Vector (Vector Bool 64) 32

/-- The memory M, as the cells that differ from the hard-reset image (R19, R31): addresses strictly rising, none equal
to what an unlisted address reads as (`Memory.wf` in Machine/Ops.lean; log 6). -/
abbrev Memory := List Host.Cell

/-- The state of CORE. -/
structure State where
  /-- V0 to VF (R10); VF is also the flag (R11). -/
  v : Vector Byte 16
  /-- The index register I (R12). -/
  i : Addr
  /-- The program counter pc (R13). -/
  pc : Addr
  /-- The call stack S, the top entry first; SP is its length (R14; log 10). -/
  stack : List Addr
  /-- The delay timer DT (R15). -/
  dt : Byte
  /-- The sound timer ST (R16). -/
  st : Byte
  /-- The display buffer FB (R17). -/
  fb : Display
  /-- The key latches K: bit k is K[k] (R18, R24). -/
  keys : BitVec 16
  /-- The memory M (R19). -/
  mem : Memory
  /-- The run state RS with the fault record FR (R20, R23). -/
  rs : RunState
  /-- The output port step_result, written by every STEP (R24, R176; log 2). -/
  stepResult : StepResult
  /-- The byte on the input port rand_in for the next STEP (R22, R24). The model's own field (log 3). -/
  randIn : Byte
  /-- How many free values have been drawn. The model's own field (logs 3, 4). -/
  draws : Nat
  /-- The parameters STACK_DEPTH and FONT (R4). The model's own field: no operation writes it (log 9). -/
  cfg : Config
  deriving DecidableEq, Repr

/-- A clear display: every pixel 0 (R70, R201). -/
def Display.blank : Display := Vector.replicate 32 (Vector.replicate 64 false)

/-- The machine right after reset: an accepted HARD_RESET with an empty ROM (R201, R202; log 5), with the default
parameters (logs 7, 8). The model's own fields and the port step_result are DESIGN CHOICE (logs 2, 3). -/
def State.reset : State where
  v := Vector.replicate 16 0
  i := 0
  pc := 0x200
  stack := []
  dt := 0
  st := 0
  fb := Display.blank
  keys := 0
  mem := []
  rs := .ready
  stepResult := .ok
  randIn := Config.randByte 0
  draws := 1
  cfg := Config.default

end Sys2Proof.Machine
end

