-- ==== Sys2Proof/Machine/Operands.lean ====
section
/-! DEFINITION. How operands become registers, immediates, addresses and jump targets (spec/30_encoding.md R60;
spec/43_index_memory.md, "I plus a constant offset"). Nothing is sign-extended, scaled or shifted unless a rule says
so. The accessors of V are here, since every operand form reads through them. -/

namespace Sys2Proof.Machine

/-- `V[x]` (R10, R60). -/
def State.getV (s : State) (x : Nibble) : Byte := s.v[x.toNat]'x.isLt

/-- `V[x] <- b` (R10). -/
def State.setV (s : State) (x : Nibble) (b : Byte) : State := { s with v := s.v.set x.toNat b x.isLt }

/-- The register number of V0 (R87). -/
def v0 : Nibble := 0x0

/-- The register number of VF, the flag (R11). -/
def vF : Nibble := 0xF

/-- An NNN operand as a pc or I value: the 12-bit address zero-extended to 16 bits (R60, R81, R82, R130). -/
def addrOfNNN (nnn : BitVec 12) : Addr := nnn.setWidth 16

/-- BNNN's target: `NNN + V[0]`, exact, 0 to 0x10FE, with no truncation in 16 bits (R87). -/
def jumpOffset (nnn : BitVec 12) (b : Byte) : Addr := BitVec.ofNat 16 (nnn.toNat + b.toNat)

/-- FX1E's index: `(I + V[X]) mod 4096` (R131). -/
def addIndex (i : Addr) (b : Byte) : Addr := BitVec.ofNat 16 ((i.toNat + b.toNat) % 4096)

/-- FX29's glyph address: `V[X] × 5`, exact, V[X] not masked (R132). -/
def glyphAddr (b : Byte) : Addr := BitVec.ofNat 16 (b.toNat * 5)

/-- FX33's digits: hundreds, tens, ones, in the order they are stored from I up (R133). -/
def bcdDigits (b : Byte) : List Byte :=
  [BitVec.ofNat 8 (b.toNat / 100), BitVec.ofNat 8 (b.toNat / 10 % 10), BitVec.ofNat 8 (b.toNat % 10)]

/-- FX55's bytes: V[0] to V[X], X + 1 of them (R134). -/
def State.regsUpTo (s : State) (x : Nibble) : List Byte := s.v.toList.take (x.toNat + 1)

/-- `I + 0`, the exact address of the first byte a DXYN, FX33, FX55 or FX65 accesses (R33, R38). -/
def State.indexAddr (s : State) : Nat := s.i.toNat

/-- DXYN's origin column: `V[X] mod 64`; only the origin wraps (R71). -/
def originX (b : Byte) : Nat := b.toNat % 64

/-- DXYN's origin row: `V[Y] mod 32` (R71). -/
def originY (b : Byte) : Nat := b.toNat % 32

/-- `K[k]` (R18). -/
def State.key (s : State) (k : Nat) : Bool := s.keys.getLsbD k

/-- FX0A's key: the least k with K[k] = 1, if any (R153; D9). -/
def State.lowestKey (s : State) : Option Nat := (List.range 16).find? s.key

end Sys2Proof.Machine
end

