-- ==== Sys2Proof/Machine/Ops.lean ====
section
/-! DEFINITION. The named operations over memory, stack, display and run state that the instructions share: the access
primitives of spec/20_memory.md R33-R35, push and pop of spec/10_state.md R14, the drawing loop of spec/40_display.md
R71, the commit-or-discard of spec/30_encoding.md R51, R52, R55, and the fault entry of spec/60_exceptions.md R172.
There is no return from a fault: only a reset leaves FAULTED (R178; Machine/HostOps.lean). -/

namespace Sys2Proof.Machine

/-! ## Memory as data: reading, writing, its canonical form (R19, R30, R31) -/

/-- What an address that is not listed reads as: the hard-reset image, FONT at 0x000-0x04F and zero elsewhere
(R31, R202; log 6). -/
def resetImage (font : Vector Byte 80) (a : Nat) : Byte := if h : a < 80 then font[a] else 0

/-- The byte M holds at an address. -/
def Memory.read (font : Vector Byte 80) : Memory → Nat → Byte
  | [], a => resetImage font a
  | (k, b) :: m, a => if k = a then b else Memory.read font m a

/-- The cells of a memory but those at one address. -/
def Memory.erase : Memory → Nat → Memory
  | [], _ => []
  | (k, b) :: m, a => if k = a then Memory.erase m a else (k, b) :: Memory.erase m a

/-- A cell put in its place among cells of rising addresses. -/
def Memory.insert (a : Nat) (v : Byte) : Memory → Memory
  | [] => [(a, v)]
  | (k, b) :: m => if a < k then (a, v) :: (k, b) :: m else (k, b) :: Memory.insert a v m

/-- `M[a] <- v`, in canonical form: no cell is kept for the byte the reset image holds. -/
def Memory.write (font : Vector Byte 80) (m : Memory) (a : Nat) (v : Byte) : Memory :=
  if v = resetImage font a then m.erase a else (m.erase a).insert a v

/-- The canonical form of the cells from address `lo` up. -/
def Memory.wfFrom (font : Vector Byte 80) (lo : Nat) : Memory → Bool
  | [] => true
  | (k, b) :: m => decide (lo ≤ k) && decide (k < memSize) && b != resetImage font k && Memory.wfFrom font (k + 1) m

/-- The canonical form: addresses strictly rising and below 0x1000, no cell equal to the reset image. -/
def Memory.wf (font : Vector Byte 80) (m : Memory) : Bool := m.wfFrom font 0

/-- The byte of M at an address, as a host observing the whole state sees it (R24). -/
def State.peek (s : State) (a : Nat) : Byte := s.mem.read s.cfg.font a

/-- `M[a] <- v`, without the range check of R34. -/
def State.poke (s : State) (a : Nat) (v : Byte) : State := { s with mem := s.mem.write s.cfg.font a v }

/-! ## Access primitives (R33-R35) -/

/-- `MemRead(addr, 1)` (R33; D4). -/
def State.memRead (s : State) (a : Nat) : Except Fault Byte :=
  if a > 0xFFF then .error .addressOutOfRange else .ok (s.peek a)

/-- `MemWrite(addr, 1, v)` (R34; D4). -/
def State.memWrite (s : State) (a : Nat) (v : Byte) : Except Fault State :=
  if a > 0xFFF then .error .addressOutOfRange else .ok (s.poke a v)

/-- `n` single-byte reads from `a` up, in order (R38); the first address above 0xFFF raises. -/
def State.readBytes (s : State) (a : Nat) : Nat → Except Fault (List Byte)
  | 0 => .ok []
  | n + 1 =>
    match s.memRead a with
    | .error f => .error f
    | .ok b =>
      match s.readBytes (a + 1) n with
      | .error f => .error f
      | .ok bs => .ok (b :: bs)

/-- Single-byte writes from `a` up, in order (R38); the first address above 0xFFF raises, and the step then discards
the writes before it (R34, R55; log 13). -/
def State.writeBytes (s : State) (a : Nat) : List Byte → Except Fault State
  | [] => .ok s
  | b :: bs =>
    match s.memWrite a b with
    | .error f => .error f
    | .ok t => t.writeBytes (a + 1) bs

/-- `Fetch()`: two bytes at pc, big-endian; raises when pc > 0xFFE (R35, R36; D5). -/
def State.fetch (s : State) : Except Fault OpWord :=
  if s.pc.toNat > 0xFFE then .error .addressOutOfRange
  else .ok (wordOfBytes (s.peek s.pc.toNat) (s.peek (s.pc.toNat + 1)))

/-! ## Registers -/

/-- VF receives a flag (R11). -/
def State.setFlag (s : State) (f : Bool) : State := s.setV vF (Flags.toByte f)

/-- `I <- a` (R12). -/
def State.setI (s : State) (a : Addr) : State := { s with i := a }

/-- `pc <- a` (R13). -/
def State.setPc (s : State) (a : Addr) : State := { s with pc := a }

/-- A skip: 2 more is added to the advanced pc when the condition holds (R52). -/
def State.skipIf (s : State) (c : Bool) : State := { s with pc := if c then s.pc + 2 else s.pc }

/-- `DT <- b` (R15). -/
def State.setDt (s : State) (b : Byte) : State := { s with dt := b }

/-- `ST <- b` (R16). -/
def State.setSt (s : State) (b : Byte) : State := { s with st := b }

/-- `FB <- d` (R17). -/
def State.setFb (s : State) (d : Display) : State := { s with fb := d }

/-- V[k], V[k+1], … receive the bytes in order; a register number past VF takes nothing (R135 never reaches one). -/
def State.setVsFrom (s : State) (k : Nat) : List Byte → State
  | [] => s
  | b :: bs => State.setVsFrom { s with v := s.v.setIfInBounds k b } (k + 1) bs

/-- The byte on rand_in, consumed: the next draw stands on the port afterwards (R22; log 3). -/
def State.nextRand (s : State) : State := { s with randIn := Config.randByte s.draws, draws := s.draws + 1 }

/-! ## Call stack (R14) -/

/-- The stack with one entry more on top (R14). -/
def State.pushed (s : State) (a : Addr) : State := { s with stack := a :: s.stack }

/-- `push(S, a)`: StackOverflow on a full stack (D3). -/
def State.push (s : State) (a : Addr) : Except Fault State :=
  if s.stack.length ≥ s.cfg.stackDepth then .error .stackOverflow else .ok (s.pushed a)

/-- `pc <- pop(S)` with the entry and the rest of a nonempty stack (R14, R80). -/
def State.popTo (s : State) (a : Addr) (rest : List Addr) : State := { s with pc := a, stack := rest }

/-! ## Display (R17, R71) -/

/-- `FB[y][x]`; nothing is stored outside the grid (R17). -/
def Display.pixel (d : Display) (y x : Nat) : Bool :=
  if h : y < 32 ∧ x < 64 then (d[y]'h.1)[x]'h.2 else false

/-- `FB[y][x] <- FB[y][x] XOR 1`, for a cell of the grid. -/
def Display.toggle (d : Display) (y x : Nat) : Display :=
  if h : y < 32 then d.set y ((d[y]'h).setIfInBounds x (!d.pixel y x)) h else d

/-- The inner loop's body of R71 for column c of a sprite row: clip at column 63; a 1 bit (bit 7 − c) toggles its pixel,
and turning an on pixel off is a collision. The pair is (FB, collision so far). -/
def plotBit (row : Byte) (x0 y : Nat) (p : Display × Bool) (c : Nat) : Display × Bool :=
  if x0 + c > 63 then p
  else if row.getLsbD (7 - c) then (p.1.toggle y (x0 + c), p.2 || p.1.pixel y (x0 + c))
  else p

/-- The outer loop's body of R71 for one sprite row: clip at row 31, then columns 0 to 7. -/
def plotRow (row : Byte) (x0 y : Nat) (p : Display × Bool) : Display × Bool :=
  if y > 31 then p else (List.range 8).foldl (plotBit row x0 y) p

/-- The outer loop of R71: the sprite's rows from row y0 down. -/
def plotSprite (x0 : Nat) : Nat → List Byte → Display × Bool → Display × Bool
  | _, [], p => p
  | y, row :: rows, p => plotSprite x0 (y + 1) rows (plotRow row x0 y p)

/-! ## The step's frame: advance, commit or discard (R51, R52, R55), and the fault entry (R172) -/

/-- The start of an instruction's effects: pc is advanced by 2 (R52), and the result is OK unless a rule says otherwise
(R51). -/
def State.advance (s : State) : State := { s with pc := s.pc + 2, stepResult := .ok }

/-- The diagnostic EmptyStackReturn (R175): only the step's result carries it. -/
def State.diagEmptyStackReturn (s : State) : State := { s with stepResult := .okEmptyStackReturn }

/-- FAULT ENTRY (R172), on the state before the step: all of it stays, RS becomes FAULTED, FR records the kind,
pc_fetch (this state's pc) and the word, and step_result is FAULT(kind). -/
def State.takeFault (s : State) (kind : Fault) (op : OpWord) : State :=
  { s with rs := .faulted ⟨kind, s.pc, op⟩, stepResult := .fault kind }

/-- The fault entry of a fetch that raised: the word is unspecified, a free value (R23, R51; log 4). -/
def State.takeFetchFault (s : State) (kind : Fault) : State :=
  { s.takeFault kind (Config.fetchFaultWord s.draws) with draws := s.draws + 1 }

/-- A STEP while FAULTED: FAULT(FR.kind), and nothing changes (R51, R173). -/
def State.repeatFault (s : State) (kind : Fault) : State := { s with stepResult := .fault kind }

/-- A STEP while UNINIT: REFUSED(NotInitialized), and nothing changes (R51, R191). -/
def State.refuseStep (s : State) : State := { s with stepResult := .refusedNotInitialized }

/-- `Execute(ins)` of R51 with R55: the instruction's effects run on the advanced state; if they raise, every write is
discarded and the fault is entered on the state before the step. The recorded word is the instruction's own
(log 14). -/
def execute (ins : Instr) (s : State) (effects : State → Except Fault State) :
    Host.Outcome State Fault Refusal :=
  match effects s.advance with
  | .ok t => .next t
  | .error kind => .next (s.takeFault kind (encode ins))

end Sys2Proof.Machine
end

