-- ==== Sys2Proof/Machine/Alu.lean ====
section
/-! DEFINITION. Register and arithmetic instructions (spec/42_alu.md R100-R112). Where a rule has two assignments they
run in order, the second on the state `t` the first left (spec/00_scope.md R9; D11); that decides X = F and Y = F. -/

namespace Sys2Proof.Machine

/-- 6XNN, LD VX, NN (R100). -/
def execLdImm (x : Nibble) (nn : Byte) (s : State) : Host.Outcome State Fault Refusal :=
  execute (.ldImm x nn) s fun s => .ok (s.setV x nn)

/-- 7XNN, ADD VX, NN (R101): mod 256, no flag. -/
def execAddImm (x : Nibble) (nn : Byte) (s : State) : Host.Outcome State Fault Refusal :=
  execute (.addImm x nn) s fun s => .ok (s.setV x (s.getV x + nn))

/-- 8XY0, LD VX, VY (R102). -/
def execLdReg (x y : Nibble) (s : State) : Host.Outcome State Fault Refusal :=
  execute (.ldReg x y) s fun s => .ok (s.setV x (s.getV y))

/-- 8XY1, OR VX, VY (R103). -/
def execOrReg (x y : Nibble) (s : State) : Host.Outcome State Fault Refusal :=
  execute (.orReg x y) s fun s => .ok (s.setV x (s.getV x ||| s.getV y))

/-- 8XY2, AND VX, VY (R104). -/
def execAndReg (x y : Nibble) (s : State) : Host.Outcome State Fault Refusal :=
  execute (.andReg x y) s fun s => .ok (s.setV x (s.getV x &&& s.getV y))

/-- 8XY3, XOR VX, VY (R105). -/
def execXorReg (x y : Nibble) (s : State) : Host.Outcome State Fault Refusal :=
  execute (.xorReg x y) s fun s => .ok (s.setV x (s.getV x ^^^ s.getV y))

/-- 8XY4, ADD VX, VY (R106). -/
def execAddReg (x y : Nibble) (s : State) : Host.Outcome State Fault Refusal :=
  execute (.addReg x y) s fun s =>
    let t := s.setFlag (Flags.carry (s.getV x) (s.getV y))
    .ok (t.setV x (t.getV x + t.getV y))

/-- 8XY5, SUB VX, VY (R107). -/
def execSub (x y : Nibble) (s : State) : Host.Outcome State Fault Refusal :=
  execute (.sub x y) s fun s =>
    let t := s.setFlag (Flags.noBorrow (s.getV x) (s.getV y))
    .ok (t.setV x (t.getV x - t.getV y))

/-- 8XY6, SHR VX (R108); Y is ignored (R61). -/
def execShr (x y : Nibble) (s : State) : Host.Outcome State Fault Refusal :=
  execute (.shr x y) s fun s =>
    let t := s.setFlag (Flags.shiftedOutLow (s.getV x))
    .ok (t.setV x (t.getV x >>> 1))

/-- 8XY7, SUBN VX, VY (R109). -/
def execSubn (x y : Nibble) (s : State) : Host.Outcome State Fault Refusal :=
  execute (.subn x y) s fun s =>
    let t := s.setFlag (Flags.noBorrow (s.getV y) (s.getV x))
    .ok (t.setV x (t.getV y - t.getV x))

/-- 8XYE, SHL VX (R110); Y is ignored (R61). -/
def execShl (x y : Nibble) (s : State) : Host.Outcome State Fault Refusal :=
  execute (.shl x y) s fun s =>
    let t := s.setFlag (Flags.shiftedOutHigh (s.getV x))
    .ok (t.setV x (t.getV x <<< 1))

/-- CXNN, RND VX, NN (R111): the byte on rand_in under a mask; the byte is then used up (R22; log 3). -/
def execRnd (x : Nibble) (nn : Byte) (s : State) : Host.Outcome State Fault Refusal :=
  execute (.rnd x nn) s fun s => .ok ((s.setV x (s.randIn &&& nn)).nextRand)

end Sys2Proof.Machine
end

