-- ==== Sys2Proof/Machine/ControlFlow.lean ====
section
/-! DEFINITION. Returns, jumps, calls and skips (spec/41_control_flow.md R80-R88). `s.pc` inside an instruction's
effects is the advanced pc (R52); a target holds from the next step on, with no delay slot (R88). -/

namespace Sys2Proof.Machine

/-- 00EE, RET (R80): on an empty stack a no-op with the diagnostic EmptyStackReturn. -/
def execRet (s : State) : Host.Outcome State Fault Refusal :=
  execute .ret s fun s =>
    match s.stack with
    | [] => .ok s.diagEmptyStackReturn
    | a :: rest => .ok (s.popTo a rest)

/-- 1NNN, JP NNN (R81). -/
def execJp (nnn : BitVec 12) (s : State) : Host.Outcome State Fault Refusal :=
  execute (.jp nnn) s fun s => .ok (s.setPc (addrOfNNN nnn))

/-- 2NNN, CALL NNN (R82): the advanced pc is pushed, then pc is the target. -/
def execCall (nnn : BitVec 12) (s : State) : Host.Outcome State Fault Refusal :=
  execute (.call nnn) s fun s =>
    match s.push s.pc with
    | .error f => .error f
    | .ok t => .ok (t.setPc (addrOfNNN nnn))

/-- 3XNN, SE VX, NN (R83). -/
def execSeImm (x : Nibble) (nn : Byte) (s : State) : Host.Outcome State Fault Refusal :=
  execute (.seImm x nn) s fun s => .ok (s.skipIf (s.getV x == nn))

/-- 4XNN, SNE VX, NN (R84). -/
def execSneImm (x : Nibble) (nn : Byte) (s : State) : Host.Outcome State Fault Refusal :=
  execute (.sneImm x nn) s fun s => .ok (s.skipIf (s.getV x != nn))

/-- 5XY0, SE VX, VY (R85). -/
def execSeReg (x y : Nibble) (s : State) : Host.Outcome State Fault Refusal :=
  execute (.seReg x y) s fun s => .ok (s.skipIf (s.getV x == s.getV y))

/-- 9XY0, SNE VX, VY (R86). -/
def execSneReg (x y : Nibble) (s : State) : Host.Outcome State Fault Refusal :=
  execute (.sneReg x y) s fun s => .ok (s.skipIf (s.getV x != s.getV y))

/-- BNNN, JP V0, NNN (R87). -/
def execJpV0 (nnn : BitVec 12) (s : State) : Host.Outcome State Fault Refusal :=
  execute (.jpV0 nnn) s fun s => .ok (s.setPc (jumpOffset nnn (s.getV v0)))

end Sys2Proof.Machine
end

