-- ==== Sys2Proof/Machine/Display.lean ====
section
/-! DEFINITION. The display instructions 00E0 and DXYN (spec/40_display.md R70-R72). -/

namespace Sys2Proof.Machine

/-- 00E0, CLS (R70): every pixel is 0. -/
def execCls (s : State) : Host.Outcome State Fault Refusal :=
  execute .cls s fun s => .ok (s.setFb Display.blank)

/-- DXYN, DRW VX, VY, N (R71): the origin is taken from V before VF is written, all N bytes are read before any write
(an address above 0xFFF faults, on a clipped row too: D19), and VF ends as the collision flag (log 15). -/
def execDrw (x y n : Nibble) (s : State) : Host.Outcome State Fault Refusal :=
  execute (.drw x y n) s fun s =>
    match s.readBytes s.indexAddr n.toNat with
    | .error f => .error f
    | .ok rows =>
      let drawn := plotSprite (originX (s.getV x)) (originY (s.getV y)) rows (s.fb, false)
      .ok ((s.setFb drawn.1).setFlag drawn.2)

end Sys2Proof.Machine
end

