-- ==== Sys2Proof/Machine/IndexMemory.lean ====
section
/-! DEFINITION. The index register and the loads and stores through it (spec/43_index_memory.md R130-R135). I is
changed by ANNN, FX1E and FX29 only (spec/10_state.md R12). -/

namespace Sys2Proof.Machine

/-- ANNN, LD I, NNN (R130). -/
def execLdI (nnn : BitVec 12) (s : State) : Host.Outcome State Fault Refusal :=
  execute (.ldI nnn) s fun s => .ok (s.setI (addrOfNNN nnn))

/-- FX1E, ADD I, VX (R131): VF first, then I from the V[X] that leaves. -/
def execAddI (x : Nibble) (s : State) : Host.Outcome State Fault Refusal :=
  execute (.addI x) s fun s =>
    let t := s.setFlag (Flags.indexOverflow s.i (s.getV x))
    .ok (t.setI (addIndex t.i (t.getV x)))

/-- FX29, LD F, VX (R132). -/
def execLdF (x : Nibble) (s : State) : Host.Outcome State Fault Refusal :=
  execute (.ldF x) s fun s => .ok (s.setI (glyphAddr (s.getV x)))

/-- FX33, LD B, VX (R133): three digits at I, I + 1, I + 2. -/
def execLdB (x : Nibble) (s : State) : Host.Outcome State Fault Refusal :=
  execute (.ldB x) s fun s => s.writeBytes s.indexAddr (bcdDigits (s.getV x))

/-- FX55, LD [I], VX (R134): V[0] to V[X] at I to I + X. -/
def execStoreRegs (x : Nibble) (s : State) : Host.Outcome State Fault Refusal :=
  execute (.storeRegs x) s fun s => s.writeBytes s.indexAddr (s.regsUpTo x)

/-- FX65, LD VX, [I] (R135): V[0] to V[X] from I to I + X. -/
def execLoadRegs (x : Nibble) (s : State) : Host.Outcome State Fault Refusal :=
  execute (.loadRegs x) s fun s =>
    match s.readBytes s.indexAddr (x.toNat + 1) with
    | .error f => .error f
    | .ok bs => .ok (s.setVsFrom 0 bs)

end Sys2Proof.Machine
end

