-- ==== Sys2Proof/Machine/KeysTimers.lean ====
section
/-! DEFINITION. The key and timer instructions (spec/44_keys_timers.md R150-R155). -/

namespace Sys2Proof.Machine

/-- EX9E, SKP VX (R150): V[X] > 0xF raises KeyIndexOutOfRange (D8). -/
def execSkp (x : Nibble) (s : State) : Host.Outcome State Fault Refusal :=
  execute (.skp x) s fun s =>
    if (s.getV x).toNat > 0xF then .error .keyIndexOutOfRange
    else .ok (s.skipIf (s.key (s.getV x).toNat))

/-- EXA1, SKNP VX (R151): V[X] > 0xF raises KeyIndexOutOfRange (D8). -/
def execSknp (x : Nibble) (s : State) : Host.Outcome State Fault Refusal :=
  execute (.sknp x) s fun s =>
    if (s.getV x).toNat > 0xF then .error .keyIndexOutOfRange
    else .ok (s.skipIf (!s.key (s.getV x).toNat))

/-- FX07, LD VX, DT (R152). -/
def execLdVxDt (x : Nibble) (s : State) : Host.Outcome State Fault Refusal :=
  execute (.ldVxDt x) s fun s => .ok (s.setV x s.dt)

/-- FX0A, LD VX, K (R153): the lowest pressed key, or `pc <- pc - 2` to wait (D9; R190). -/
def execLdVxK (x : Nibble) (s : State) : Host.Outcome State Fault Refusal :=
  execute (.ldVxK x) s fun s =>
    match s.lowestKey with
    | some k => .ok (s.setV x (BitVec.ofNat 8 k))
    | none => .ok (s.setPc (s.pc - 2))

/-- FX15, LD DT, VX (R154). -/
def execLdDtVx (x : Nibble) (s : State) : Host.Outcome State Fault Refusal :=
  execute (.ldDtVx x) s fun s => .ok (s.setDt (s.getV x))

/-- FX18, LD ST, VX (R155). -/
def execLdStVx (x : Nibble) (s : State) : Host.Outcome State Fault Refusal :=
  execute (.ldStVx x) s fun s => .ok (s.setSt (s.getV x))

end Sys2Proof.Machine
end

