-- ==== Sys2Proof/Machine/Step.lean ====
section
/-! DEFINITION. STEP (spec/30_encoding.md R51) with the byte on rand_in already in the state, and the host's way of
placing one instruction before it. -/

namespace Sys2Proof.Machine

/-- STEP: refused while UNINIT (R191), FAULT(FR.kind) again while FAULTED (R173), else fetch, decode, execute; a fault
of the fetch or of the decoding is entered on the state before the step (R172, R174). -/
def step (s : State) : Host.Outcome State Fault Refusal :=
  match s.rs with
  | .uninit => .next s.refuseStep
  | .faulted fr => .next (s.repeatFault fr.kind)
  | .ready =>
    match s.fetch with
    | .error kind => .next (s.takeFetchFault kind)
    | .ok op =>
      match decodeWord op with
      | none => .next (s.takeFault .unknownOpcode op)
      | some i => exec i s

/-- `s` with the instruction word `w` stored where the next step fetches: the two bytes at pc, big-endian (R35), with
RS = READY. A pc no fetch can use (above 0xFFE) is moved to the entry point 0x200. Log 5: this stands for the host
loading a program. -/
def State.withFetchWord (s : State) (nbits w : Nat) : State :=
  let op : OpWord := BitVec.ofNat 16 (w % 2 ^ nbits)
  let at' : Addr := if s.pc.toNat > 0xFFE then 0x200 else s.pc
  (({ s with pc := at', rs := .ready }).poke at'.toNat (highByte op)).poke (at'.toNat + 1) (lowByte op)

end Sys2Proof.Machine
end

