-- ==== Sys2Proof/Machine/HostOps.lean ====
section
/-! DEFINITION. The host's operations other than the bare STEP (spec/10_state.md R24; spec/60_exceptions.md R171,
R176-R191; spec/70_reset_and_hazards.md R200-R206, R211). Each is atomic, and the host performs them one at a time in
any order (R186, R187): a run of CORE is a list of `HostOp`. -/

namespace Sys2Proof.Machine

/-! ## Resets (R201-R203) -/

/-- The result of TICK, SOFT_RESET and HARD_RESET, and the port reset_result (R24, R180, R203). -/
inductive OpResult where
  | ok
  | refusedNotInitialized
  | romTooLarge
  deriving DecidableEq, Repr

/-- SOFT_RESET's effect (R201): the working state is cleared, RS is READY, FR holds nothing, M is untouched. It is
total: it works in every run state. The ports step_result and rand_in are not part of it (log 2, log 3). -/
def State.softReset (s : State) : State :=
  { s with
    fb := Display.blank
    keys := 0
    v := Vector.replicate 16 0
    pc := BitVec.ofNat 16 programBase
    i := 0
    dt := 0
    st := 0
    stack := []
    rs := .ready }

/-- SOFT_RESET with its result, always OK (R24, R201). -/
def State.softResetOp (s : State) : OpResult × State := (.ok, s.softReset)

/-- The cells of a ROM from address `a` up that differ from the reset image (R202). -/
def romCells (font : Vector Byte 80) (a : Nat) : List Byte → Memory
  | [] => []
  | b :: bs => if b = resetImage font a then romCells font (a + 1) bs else (a, b) :: romCells font (a + 1) bs

/-- HARD_RESET (R202, R203): a ROM of more than 3584 bytes changes nothing; any other is loaded over FONT and zeros,
and SOFT_RESET follows. The empty list of cells is FONT at 0x000-0x04F and zero elsewhere. -/
def State.hardReset (s : State) (rom : List Byte) : OpResult × State :=
  if rom.length > maxRom then (.romTooLarge, s)
  else (.ok, ({ s with mem := romCells s.cfg.font programBase rom }).softReset)

/-! ## TICK, SET_KEYS and the readouts (R177, R180-R183) -/

/-- One timer's tick: down by one while above zero (R180). -/
def countDown (b : Byte) : Byte := if b.toNat > 0 then b - 1 else 0

/-- TICK (R180): refused while UNINIT, otherwise both timers count down, in READY and FAULTED alike (D24). -/
def State.tick (s : State) : OpResult × State :=
  match s.rs with
  | .uninit => (.refusedNotInitialized, s)
  | _ => (.ok, { s with dt := countDown s.dt, st := countDown s.st })

/-- SET_KEYS (R181): the whole key vector, in every run state. -/
def State.setKeys (s : State) (keysIn : BitVec 16) : State := { s with keys := keysIn }

/-- The port fb_out (R182). -/
def State.fbOut (s : State) : Display := s.fb

/-- The port sound_on (R183). -/
def State.soundOn (s : State) : Bool := s.st != 0

/-- The port status_out: RS, with FR while FAULTED (R177). -/
def State.statusOut (s : State) : RunState := s.rs

/-- FR, which holds a value exactly while RS = FAULTED (R23). -/
def State.fr (s : State) : Option FaultRecord :=
  match s.rs with
  | .faulted fr => some fr
  | _ => none

/-- SP, the number of entries of the call stack (R14). -/
def State.sp (s : State) : Nat := s.stack.length

/-- A power-on state (R200): RS is UNINIT and everything else is unspecified, that is any state with that RS (log 16). -/
def State.isPowerOn (s : State) : Bool := s.rs == .uninit

/-! ## Codes (R171; D36) -/

/-- The code of a fault, the value of `FR.kind` on its port. -/
def Fault.code : Fault → Byte
  | .unknownOpcode => 0x01
  | .addressOutOfRange => 0x02
  | .stackOverflow => 0x03
  | .keyIndexOutOfRange => 0x04

/-- The code of a step result. -/
def StepResult.code : StepResult → Byte
  | .ok => 0x00
  | .okEmptyStackReturn => 0x10
  | .fault kind => kind.code
  | .refusedNotInitialized => 0x20

/-- The code of another operation's result. -/
def OpResult.code : OpResult → Byte
  | .ok => 0x00
  | .refusedNotInitialized => 0x20
  | .romTooLarge => 0x30

/-! ## Runs: any sequence of host operations (R186, R187; D33) -/

/-- STEP(rand_in) as one host operation (R24, R51): the host puts the byte on the port and CORE steps. -/
def State.stepWith (s : State) (rand : Byte) : Host.Outcome State Fault Refusal := step { s with randIn := rand }

/-- The host operations that change state (R24). The readouts change nothing (R182). -/
inductive HostOp where
  | step (rand : Byte)
  | tick
  | setKeys (keysIn : BitVec 16)
  | softReset
  | hardReset (rom : List Byte)
  deriving DecidableEq, Repr

/-- One host operation. -/
def State.apply (s : State) : HostOp → Host.Outcome State Fault Refusal
  | .step rand => s.stepWith rand
  | .tick => .next s.tick.2
  | .setKeys keysIn => .next (s.setKeys keysIn)
  | .softReset => .next s.softResetOp.2
  | .hardReset rom => .next (s.hardReset rom).2

/-- A run: host operations in the order the host issues them (R40, R186). -/
def State.runOps (s : State) : List HostOp → Host.Outcome State Fault Refusal
  | [] => .next s
  | op :: ops =>
    match s.apply op with
    | .next t => t.runOps ops
    | .fault r => .fault r
    | .refused r => .refused r

/-- The host's usual frame (R211): STEPS_PER_FRAME STEPs, one for each byte given, then one TICK; the readout after it
changes nothing. -/
def frame (rands : List Byte) : List HostOp := rands.map HostOp.step ++ [.tick]

end Sys2Proof.Machine
end

