-- ==== Sys2Proof/Safety.lean ====
section
/-! DEFINITION. The terms claims are stated in: which parts of the state an operation leaves unchanged, what a fault
entry leaves (spec/60_exceptions.md R172), and the invariant of every state a run of host operations can reach. -/

namespace Sys2Proof.Machine

/-- The parts of the state. -/
inductive Part where
  | v | i | pc | stack | dt | st | fb | keys | mem | rs | stepResult | randIn | draws | cfg
  deriving DecidableEq, Repr

/-- One part is the same in two states: V register by register, M byte by byte, the rest as a whole. -/
def SamePart (s t : State) : Part → Prop
  | .v => ∀ r, t.getV r = s.getV r
  | .i => t.i = s.i
  | .pc => t.pc = s.pc
  | .stack => t.stack = s.stack
  | .dt => t.dt = s.dt
  | .st => t.st = s.st
  | .fb => t.fb = s.fb
  | .keys => t.keys = s.keys
  | .mem => ∀ a, t.peek a = s.peek a
  | .rs => t.rs = s.rs
  | .stepResult => t.stepResult = s.stepResult
  | .randIn => t.randIn = s.randIn
  | .draws => t.draws = s.draws
  | .cfg => t.cfg = s.cfg

/-- From `s` to `t` every part but the listed ones is unchanged (spec/00_scope.md R8). -/
def UnchangedBut (parts : List Part) (s t : State) : Prop := ∀ p, p ∉ parts → SamePart s t p

/-- The registers but the listed ones are unchanged. -/
def RegsUnchangedBut (regs : List Nibble) (s t : State) : Prop := ∀ r, r ∉ regs → t.getV r = s.getV r

/-- An instruction that goes to the next word: pc is pc_fetch + 2 and the step's result is OK (R51, R52). -/
def GoesOn (s t : State) : Prop := t.pc = s.pc + 2 ∧ t.stepResult = .ok

/-- Fault entry (R172): RS and FR say so, the result is FAULT(kind), and everything else is as before the step. -/
def FaultEntry (kind : Fault) (op : OpWord) (s t : State) : Prop :=
  t.rs = .faulted ⟨kind, s.pc, op⟩ ∧ t.stepResult = .fault kind ∧ UnchangedBut [.rs, .stepResult] s t

/-- The word a fetch at pc reads (R35): the byte at pc is the high one. -/
def State.wordAtPc (s : State) : OpWord := s.peek s.pc.toNat ++ s.peek (s.pc.toNat + 1)

/-- The bit of an N-row sprite that DXYN draws on cell (y, x), for the registers and memory of `s` (R71): the sprite
byte for the cell's row at bit 7 − column, and false outside the sprite. -/
def State.spriteBit (s : State) (vx vy : Nibble) (n y x : Nat) : Bool :=
  let x0 := (s.getV vx).toNat % 64
  let y0 := (s.getV vy).toNat % 32
  decide (y0 ≤ y ∧ y < y0 + n ∧ x0 ≤ x ∧ x < x0 + 8) &&
    (s.peek (s.i.toNat + (y - y0))).getLsbD (7 - (x - x0))

/-- The invariant of a run: M is in canonical form; and once RS has left UNINIT, I is below 0x1000 (R26), pc is at
most 0x10FE (R13), the stack holds at most STACK_DEPTH entries (R14), each a pc after a fetch, at most 0x1000. -/
structure State.Inv (s : State) : Prop where
  memory : s.mem.wf s.cfg.font = true
  index : s.rs ≠ .uninit → s.i.toNat ≤ 0xFFF
  counter : s.rs ≠ .uninit → s.pc.toNat ≤ 0x10FE
  depth : s.rs ≠ .uninit → s.stack.length ≤ s.cfg.stackDepth
  returns : s.rs ≠ .uninit → ∀ a ∈ s.stack, a.toNat ≤ 0x1000

end Sys2Proof.Machine
end

