-- ==== Sys2Proof/Certificates/Slice0/Obligations.lean ====
section
/-! DEFINITION. The statements for the provers: what the numbered rules of spec/ say the machine does. `exec i s` runs
the instruction i on the state s before the step, with pc = pc_fetch. Every statement about a state holds for every
value of the free values and for every STACK_DEPTH and FONT, since a state carries them (logs 3, 4, 9). -/

open Sys2Proof Sys2Proof.Machine

/-! ## Encoding and decoding (spec/30_encoding.md) -/

/-- R53, R54, R56: the decoder reads from an instruction's word, and from its two bytes, that instruction and leaves
the bytes after it. -/
def Obligations.DecodeEncodeRoundTrip : Prop :=
  ∀ (i : Instr) (rest : List Byte),
    decodeWord (encode i) = some i ∧ decode (encodeBytes i ++ rest) = .ok (i, rest)

/-- R53, R56: a word that decodes to an instruction is that instruction's word; no bit of it is dropped. -/
def Obligations.DecodedWordEncodesBack : Prop :=
  ∀ (op : OpWord) (i : Instr), decodeWord op = some i → encode i = op

/-- R57: decoding gives an instruction of a row exactly when `op AND mask = match` for that row, and UNKNOWN exactly
when the word matches no row. -/
def Obligations.DecodeAgreesWithOpcodeMap : Prop :=
  (∀ (op : OpWord) (i : Instr), i ∈ oneOfEachRow →
    ((∃ j, decodeWord op = some j ∧ j.row = i.row) ↔ op &&& i.row.mask = i.row.bits)) ∧
  (∀ op : OpWord, decodeWord op = none ↔ ∀ i ∈ oneOfEachRow, op &&& i.row.mask ≠ i.row.bits)

/-- R56: there are 34 rows, every instruction is of one of them, and no word matches two. -/
def Obligations.OpcodeRowsDisjoint : Prop :=
  opcodeRows.length = 34 ∧ (∀ i : Instr, i.row ∈ opcodeRows) ∧
  ∀ (op : OpWord) (r q : OpcodeRow), r ∈ opcodeRows → q ∈ opcodeRows →
    op &&& r.mask = r.bits → op &&& q.mask = q.bits → r = q

/-- Words written out bit by bit from the patterns of R56 decode to the instruction they stand for, one of each
family. -/
def Obligations.WordsOfEachFamilyDecode : Prop :=
  decodeWord 0b0000000011100000#16 = some .cls ∧                      -- 00E0
  decodeWord 0b1101000100100101#16 = some (.drw 1 2 5) ∧              -- D125
  decodeWord 0b0010001000010000#16 = some (.call 0x210) ∧             -- 2210
  decodeWord 0b1000001111010101#16 = some (.sub 3 0xD) ∧              -- 83D5
  decodeWord 0b1111001101010101#16 = some (.storeRegs 3) ∧            -- F355
  decodeWord 0b1110010110100001#16 = some (.sknp 5) ∧                 -- E5A1
  decodeWord 0b0101000100100001#16 = none                             -- 5121

/-! ## The step (R51, R52, R55) and its faults (spec/60_exceptions.md) -/

/-- R51, R35: in READY, when the two bytes at pc decode to an instruction, STEP is `exec` of it on that state. -/
def Obligations.StepRunsDecodedInstruction : Prop :=
  ∀ (s : State) (i : Instr), s.rs = .ready → s.pc.toNat ≤ 0xFFE → decodeWord s.wordAtPc = some i →
    step s = exec i s

/-- STEP is total: in every run state and whatever it fetches, `step` answers a next state. R51 says what a faulting,
repeated or refused STEP leaves and returns; that these too answer `Outcome.next`, and none of them stops the model, is
the model's choice (log 1). -/
def Obligations.StepAlwaysAnswers : Prop := ∀ s : State, ∃ t, step s = .next t

/-- R35: a fetch reads the byte at pc as the high byte and the byte at pc + 1 as the low byte; with pc above 0xFFE a
STEP faults with AddressOutOfRange at pc, with some FR.op (unspecified: log 4), and leaves everything else as it was. -/
def Obligations.FetchReadsTwoBytesOrFaults : Prop :=
  (∀ s : State, s.pc.toNat ≤ 0xFFE → s.fetch = .ok (s.peek s.pc.toNat ++ s.peek (s.pc.toNat + 1))) ∧
  (∀ s : State, s.rs = .ready → s.pc.toNat > 0xFFE →
    ∃ t w, step s = .next t ∧ t.rs = .faulted ⟨.addressOutOfRange, s.pc, w⟩ ∧
      t.stepResult = .fault .addressOutOfRange ∧ UnchangedBut [.rs, .stepResult, .draws] s t)

/-- R57, R58: the words that decode to no instruction are those of R58's groups, and a READY step that fetches one
faults with UnknownOpcode, recording pc_fetch and the word. -/
def Obligations.UnrecognisedWordsFault : Prop :=
  (∀ op : OpWord, decodeWord op = none ↔
    (op.top = 0x0 ∧ op ≠ 0x00E0 ∧ op ≠ 0x00EE) ∨
    (op.top = 0x5 ∧ op.n ≠ 0x0) ∨
    (op.top = 0x8 ∧ op.n ∈ [0x8#4, 0x9#4, 0xA#4, 0xB#4, 0xC#4, 0xD#4, 0xF#4]) ∨
    (op.top = 0x9 ∧ op.n ≠ 0x0) ∨
    (op.top = 0xE ∧ op.nn ∉ [0x9E#8, 0xA1#8]) ∨
    (op.top = 0xF ∧ op.nn ∉ [0x07#8, 0x0A#8, 0x15#8, 0x18#8, 0x1E#8, 0x29#8, 0x33#8, 0x55#8, 0x65#8])) ∧
  (∀ s : State, s.rs = .ready → s.pc.toNat ≤ 0xFFE → decodeWord s.wordAtPc = none →
    ∃ t, step s = .next t ∧ FaultEntry .unknownOpcode s.wordAtPc s t)

/-- R172 (the spec's decision D13): whenever a READY step ends FAULTED, FR holds pc_fetch and, unless the fetch raised,
the fetched word; the result is FAULT of FR's kind; and nothing but RS, FR and the result has changed, apart from the
model's own field `draws`, which counts the free value drawn for the unspecified word of a fetch fault (log 4). -/
def Obligations.FaultingStepIsPrecise : Prop :=
  ∀ (s t : State) (fr : FaultRecord), s.rs = .ready → step s = .next t → t.rs = .faulted fr →
    fr.addr = s.pc ∧ t.stepResult = .fault fr.kind ∧ UnchangedBut [.rs, .stepResult, .draws] s t ∧
    (s.pc.toNat ≤ 0xFFE → fr.op = s.wordAtPc ∧ t.draws = s.draws)

/-- R174: the kind of fault an instruction itself raises belongs to it: StackOverflow to 2NNN, KeyIndexOutOfRange to
EX9E and EXA1, AddressOutOfRange to DXYN, FX33, FX55 and FX65, and no instruction raises UnknownOpcode. -/
def Obligations.InstructionFaultKinds : Prop :=
  ∀ (i : Instr) (s t : State) (fr : FaultRecord), s.rs = .ready → exec i s = .next t → t.rs = .faulted fr →
    (fr.kind = .stackOverflow ∧ ∃ nnn, i = .call nnn) ∨
    (fr.kind = .keyIndexOutOfRange ∧ ∃ x, i = .skp x ∨ i = .sknp x) ∨
    (fr.kind = .addressOutOfRange ∧
      ((∃ x y n, i = .drw x y n) ∨ ∃ x, i = .ldB x ∨ i = .storeRegs x ∨ i = .loadRegs x))

/-- R173 (the spec's decision D14): while FAULTED a STEP answers FAULT(FR.kind) and changes nothing else; TICK, SET_KEYS
and the readouts work as in READY; and an operation that changes RS is SOFT_RESET or a HARD_RESET whose ROM fits. -/
def Obligations.FaultedIsSticky : Prop :=
  ∀ (s : State) (fr : FaultRecord), s.rs = .faulted fr →
    (∃ t, step s = .next t ∧ t.stepResult = .fault fr.kind ∧ UnchangedBut [.stepResult] s t) ∧
    (∀ r : State, r = { s with rs := .ready } →
      s.tick = (r.tick.1, { r.tick.2 with rs := s.rs }) ∧
      (∀ k, s.setKeys k = { r.setKeys k with rs := s.rs }) ∧
      s.fbOut = r.fbOut ∧ s.soundOn = r.soundOn ∧ s.statusOut = .faulted fr) ∧
    (∀ (op : HostOp) (t : State), s.apply op = .next t → t.rs ≠ s.rs →
      t.rs = .ready ∧ (op = .softReset ∨ ∃ rom, op = .hardReset rom ∧ rom.length ≤ 3584))

/-- R191 (the spec's decision D15): while UNINIT, STEP and TICK are refused and change nothing; SET_KEYS only sets K,
which a reset clears; and only a reset leaves UNINIT. -/
def Obligations.UninitRefusesStepAndTick : Prop :=
  ∀ s : State, s.rs = .uninit →
    (∃ t, step s = .next t ∧ t.stepResult = .refusedNotInitialized ∧ UnchangedBut [.stepResult] s t) ∧
    s.tick = (.refusedNotInitialized, s) ∧
    (∀ k, (∀ b < 16, (s.setKeys k).key b = k.getLsbD b) ∧ UnchangedBut [.keys] s (s.setKeys k)) ∧
    (∀ b < 16, s.softReset.key b = false) ∧
    (∀ rom : List Byte, rom.length ≤ 3584 → ∀ b < 16, (s.hardReset rom).2.key b = false) ∧
    (∀ (op : HostOp) (t : State), s.apply op = .next t → t.rs ≠ .uninit →
      op = .softReset ∨ ∃ rom, op = .hardReset rom)

/-! ## Invariants -/

/-- The invariant holds right after reset. -/
def Obligations.ResetMeetsInvariant : Prop := State.reset.Inv

/-- R13, R14, R26 and the canonical form of M: every STEP, from every state that meets the invariant, gives a state that
meets it. -/
def Obligations.StepKeepsInvariant : Prop := ∀ s t : State, s.Inv → step s = .next t → t.Inv

/-- R186, R187: every sequence of host operations with any ROMs, keys and random bytes, from every state that meets the
invariant, ends in a state that meets it. -/
def Obligations.HostRunKeepsInvariant : Prop :=
  ∀ (ops : List HostOp) (s : State), s.Inv → ∃ t, s.runOps ops = .next t ∧ t.Inv

/-- R19, R39: memory is its bytes: two memories in canonical form that read the same at every address are the same
data. -/
def Obligations.CanonicalMemoryIsItsBytes : Prop :=
  ∀ (font : Vector Byte 80) (m n : Memory), m.wf font = true → n.wf font = true →
    (∀ a, m.read font a = n.read font a) → m = n

/-! ## Whole-machine rules -/

/-- R12, R14-R18, R30: which instructions can change M, FB, I, S, DT and ST; no instruction changes K or the
parameters. -/
def Obligations.WritersOfEachPart : Prop :=
  ∀ (i : Instr) (s t : State), exec i s = .next t →
    ((∀ x, i ≠ .ldB x ∧ i ≠ .storeRegs x) → ∀ a, t.peek a = s.peek a) ∧
    (i ≠ .cls → (∀ x y n, i ≠ .drw x y n) → t.fb = s.fb) ∧
    ((∀ a, i ≠ .ldI a) → (∀ x, i ≠ .addI x ∧ i ≠ .ldF x) → t.i = s.i) ∧
    (i ≠ .ret → (∀ a, i ≠ .call a) → t.stack = s.stack) ∧
    ((∀ x, i ≠ .ldDtVx x) → t.dt = s.dt) ∧
    ((∀ x, i ≠ .ldStVx x) → t.st = s.st) ∧
    t.keys = s.keys ∧ t.cfg = s.cfg

/-- R11: an instruction that changes VF is one that writes it as a flag or one whose destination register is VF. -/
def Obligations.WritersOfTheFlag : Prop :=
  ∀ (i : Instr) (s t : State), exec i s = .next t → t.getV vF ≠ s.getV vF →
    (∃ x y, i = .addReg x y ∨ i = .sub x y ∨ i = .shr x y ∨ i = .subn x y ∨ i = .shl x y) ∨
    (∃ x, i = .addI x) ∨ (∃ x y n, i = .drw x y n) ∨
    (∃ nn, i = .ldImm vF nn ∨ i = .addImm vF nn ∨ i = .rnd vF nn) ∨
    (∃ y, i = .ldReg vF y ∨ i = .orReg vF y ∨ i = .andReg vF y ∨ i = .xorReg vF y) ∨
    i = .ldVxDt vF ∨ i = .ldVxK vF ∨ i = .loadRegs vF

/-- R20: RS never returns to UNINIT; SOFT_RESET and a HARD_RESET whose ROM fits make RS READY from any state. -/
def Obligations.RunStateNeverReturnsToUninit : Prop :=
  (∀ (s t : State) (op : HostOp), s.apply op = .next t → s.rs ≠ .uninit → t.rs ≠ .uninit) ∧
  (∀ s : State, s.softReset.rs = .ready ∧
    ∀ rom : List Byte, rom.length ≤ 3584 → (s.hardReset rom).1 = .ok ∧ (s.hardReset rom).2.rs = .ready)

/-- R22: only CXNN reads the random input: any other instruction does the same whatever byte the host supplies. -/
def Obligations.OnlyRndReadsRandomInput : Prop :=
  ∀ (i : Instr) (s t : State) (b : Byte), (∀ x nn, i ≠ .rnd x nn) → exec i s = .next t →
    exec i { s with randIn := b } = .next { t with randIn := b }

/-- R16: no instruction reads ST: with another ST an instruction does the same on every other part of the state. -/
def Obligations.NoInstructionReadsSoundTimer : Prop :=
  ∀ (i : Instr) (s t : State) (b : Byte), exec i s = .next t →
    ∃ u, exec i { s with st := b } = .next u ∧ UnchangedBut [.st] t u

/-! ## Display (spec/40_display.md) -/

/-- R70: 00E0 turns every pixel off and changes nothing else but pc. -/
def Obligations.ClearDisplay : Prop :=
  ∀ s : State, ∃ t, exec .cls s = .next t ∧ (∀ y < 32, ∀ x < 64, t.fb.pixel y x = false) ∧ GoesOn s t ∧
    UnchangedBut [.fb, .pc, .stepResult] s t

/-- R71: DXYN with all its bytes inside M XORs each pixel with its sprite bit (the origin V[X] mod 64, V[Y] mod 32 from
the registers before the step, nothing beyond column 63 or row 31), and VF is 1 if some pixel that was on met a 1 bit,
else 0. With a byte above 0xFFF it faults, clipped row or not. -/
def Obligations.DrawSprite : Prop :=
  ∀ (s : State) (x y n : Nibble),
    ((∀ r < n.toNat, s.i.toNat + r ≤ 0xFFF) →
      ∃ t, exec (.drw x y n) s = .next t ∧
        (∀ q < 32, ∀ p < 64, t.fb.pixel q p = (s.fb.pixel q p ^^ s.spriteBit x y n.toNat q p)) ∧
        ((∃ q < 32, ∃ p < 64, s.fb.pixel q p = true ∧ s.spriteBit x y n.toNat q p = true) → t.getV vF = 1) ∧
        ((∀ q < 32, ∀ p < 64, s.fb.pixel q p = true → s.spriteBit x y n.toNat q p = false) → t.getV vF = 0) ∧
        RegsUnchangedBut [vF] s t ∧ GoesOn s t ∧ UnchangedBut [.v, .fb, .pc, .stepResult] s t) ∧
    ((∃ r < n.toNat, s.i.toNat + r > 0xFFF) →
      ∃ t, exec (.drw x y n) s = .next t ∧ FaultEntry .addressOutOfRange (encode (.drw x y n)) s t)

/-- R72: a cell that DXYN changes has its row between y0 and min(y0 + N − 1, 31) and its column between x0 and
min(x0 + 7, 63). -/
def Obligations.DrawRegion : Prop :=
  ∀ (s t : State) (x y n : Nibble), exec (.drw x y n) s = .next t →
    ∀ q p, t.fb.pixel q p ≠ s.fb.pixel q p →
      (s.getV y).toNat % 32 ≤ q ∧ q < (s.getV y).toNat % 32 + n.toNat ∧ q ≤ 31 ∧
      (s.getV x).toNat % 64 ≤ p ∧ p ≤ min ((s.getV x).toNat % 64 + 7) 63

/-- R71, "Draw twice": with X and Y other than F, drawing the same sprite twice restores the display, and the second
draw sets VF exactly when the first left a pixel of the sprite on. -/
def Obligations.DrawTwiceRestores : Prop :=
  ∀ (s t : State) (x y n : Nibble), x ≠ vF → y ≠ vF → (∀ r < n.toNat, s.i.toNat + r ≤ 0xFFF) →
    exec (.drw x y n) s = .next t →
    ∃ u, exec (.drw x y n) t = .next u ∧ u.fb = s.fb ∧
      (u.getV vF = 1 ↔ ∃ q < 32, ∃ p < 64, t.fb.pixel q p = true ∧ s.spriteBit x y n.toNat q p = true)

/-! ## Control flow (spec/41_control_flow.md) -/

/-- R80, R175: RET pops the top entry into pc; on an empty stack it goes on to the next word with the diagnostic and
changes nothing else. -/
def Obligations.ReturnPopsOrGoesOn : Prop :=
  (∀ (s : State) (a : Addr) (rest : List Addr), s.stack = a :: rest →
    ∃ t, exec .ret s = .next t ∧ t.pc = a ∧ t.stack = rest ∧ t.stepResult = .ok ∧
      UnchangedBut [.pc, .stack, .stepResult] s t) ∧
  (∀ s : State, s.stack = [] →
    ∃ t, exec .ret s = .next t ∧ t.pc = s.pc + 2 ∧ t.stepResult = .okEmptyStackReturn ∧
      UnchangedBut [.pc, .stepResult] s t)

/-- R81, R87: JP NNN sets pc to NNN; JP V0, NNN sets pc to NNN + V0 exactly, with no wrap. -/
def Obligations.JumpsSetPc : Prop :=
  ∀ (s : State) (nnn : BitVec 12),
    (∃ t, exec (.jp nnn) s = .next t ∧ t.pc.toNat = nnn.toNat ∧ t.stepResult = .ok ∧
      UnchangedBut [.pc, .stepResult] s t) ∧
    (∃ t, exec (.jpV0 nnn) s = .next t ∧ t.pc.toNat = nnn.toNat + (s.getV v0).toNat ∧ t.stepResult = .ok ∧
      UnchangedBut [.pc, .stepResult] s t)

/-- R82: CALL pushes pc_fetch + 2 and sets pc to NNN; on a full stack it faults with StackOverflow. -/
def Obligations.CallPushesReturnAddress : Prop :=
  ∀ (s : State) (nnn : BitVec 12),
    (s.stack.length < s.cfg.stackDepth →
      ∃ t, exec (.call nnn) s = .next t ∧ t.stack = (s.pc + 2) :: s.stack ∧ t.pc.toNat = nnn.toNat ∧
        t.stepResult = .ok ∧ UnchangedBut [.pc, .stack, .stepResult] s t) ∧
    (s.stack.length = s.cfg.stackDepth →
      ∃ t, exec (.call nnn) s = .next t ∧ FaultEntry .stackOverflow (encode (.call nnn)) s t)

/-- R83, R84: SE and SNE with an immediate add 2 to the advanced pc when V[X] equals, or differs from, NN. -/
def Obligations.SkipsOnImmediate : Prop :=
  ∀ (s : State) (x : Nibble) (nn : Byte),
    (∃ t, exec (.seImm x nn) s = .next t ∧ t.pc = (if s.getV x = nn then s.pc + 2 + 2 else s.pc + 2) ∧
      t.stepResult = .ok ∧ UnchangedBut [.pc, .stepResult] s t) ∧
    (∃ t, exec (.sneImm x nn) s = .next t ∧ t.pc = (if s.getV x = nn then s.pc + 2 else s.pc + 2 + 2) ∧
      t.stepResult = .ok ∧ UnchangedBut [.pc, .stepResult] s t)

/-- R85, R86: SE and SNE with two registers. -/
def Obligations.SkipsOnRegisters : Prop :=
  ∀ (s : State) (x y : Nibble),
    (∃ t, exec (.seReg x y) s = .next t ∧ t.pc = (if s.getV x = s.getV y then s.pc + 2 + 2 else s.pc + 2) ∧
      t.stepResult = .ok ∧ UnchangedBut [.pc, .stepResult] s t) ∧
    (∃ t, exec (.sneReg x y) s = .next t ∧ t.pc = (if s.getV x = s.getV y then s.pc + 2 else s.pc + 2 + 2) ∧
      t.stepResult = .ok ∧ UnchangedBut [.pc, .stepResult] s t)

/-! ## Registers and arithmetic (spec/42_alu.md) -/

/-- R100, R101: LD VX, NN and ADD VX, NN, the sum mod 256 with no flag. -/
def Obligations.LoadAndAddImmediate : Prop :=
  ∀ (s : State) (x : Nibble) (nn : Byte),
    (∃ t, exec (.ldImm x nn) s = .next t ∧ t.getV x = nn ∧ RegsUnchangedBut [x] s t ∧ GoesOn s t ∧
      UnchangedBut [.v, .pc, .stepResult] s t) ∧
    (∃ t, exec (.addImm x nn) s = .next t ∧ (t.getV x).toNat = ((s.getV x).toNat + nn.toNat) % 256 ∧
      RegsUnchangedBut [x] s t ∧ GoesOn s t ∧ UnchangedBut [.v, .pc, .stepResult] s t)

/-- R102-R105: LD, OR, AND and XOR of two registers, bit by bit; no flag. -/
def Obligations.CopyAndBitwiseRegisters : Prop :=
  ∀ (s : State) (x y : Nibble),
    (∃ t, exec (.ldReg x y) s = .next t ∧ t.getV x = s.getV y ∧ RegsUnchangedBut [x] s t ∧ GoesOn s t ∧
      UnchangedBut [.v, .pc, .stepResult] s t) ∧
    (∃ t, exec (.orReg x y) s = .next t ∧
      (∀ b < 8, (t.getV x).getLsbD b = ((s.getV x).getLsbD b || (s.getV y).getLsbD b)) ∧
      RegsUnchangedBut [x] s t ∧ GoesOn s t ∧ UnchangedBut [.v, .pc, .stepResult] s t) ∧
    (∃ t, exec (.andReg x y) s = .next t ∧
      (∀ b < 8, (t.getV x).getLsbD b = ((s.getV x).getLsbD b && (s.getV y).getLsbD b)) ∧
      RegsUnchangedBut [x] s t ∧ GoesOn s t ∧ UnchangedBut [.v, .pc, .stepResult] s t) ∧
    (∃ t, exec (.xorReg x y) s = .next t ∧
      (∀ b < 8, (t.getV x).getLsbD b = ((s.getV x).getLsbD b ^^ (s.getV y).getLsbD b)) ∧
      RegsUnchangedBut [x] s t ∧ GoesOn s t ∧ UnchangedBut [.v, .pc, .stepResult] s t)

/-- R106: ADD VX, VY in each of the rule's cases; `c` is the carry of the operands before the step. -/
def Obligations.AddRegisters : Prop :=
  ∀ (s : State) (x y : Nibble) (c : Nat), c = (if (s.getV x).toNat + (s.getV y).toNat > 255 then 1 else 0) →
    ∃ t, exec (.addReg x y) s = .next t ∧
      (x ≠ vF → y ≠ vF → (t.getV vF).toNat = c ∧
        (t.getV x).toNat = ((s.getV x).toNat + (s.getV y).toNat) % 256) ∧
      (x = vF → y ≠ vF → (t.getV vF).toNat = (c + (s.getV y).toNat) % 256) ∧
      (x ≠ vF → y = vF → (t.getV vF).toNat = c ∧ (t.getV x).toNat = ((s.getV x).toNat + c) % 256) ∧
      (x = vF → y = vF → (t.getV vF).toNat = 2 * c) ∧
      RegsUnchangedBut [x, vF] s t ∧ GoesOn s t ∧ UnchangedBut [.v, .pc, .stepResult] s t

/-- R107: SUB VX, VY in each of the rule's cases; `b` is the strict no-borrow of the operands before the step. -/
def Obligations.SubtractRegisters : Prop :=
  ∀ (s : State) (x y : Nibble) (b : Nat), b = (if (s.getV x).toNat > (s.getV y).toNat then 1 else 0) →
    ∃ t, exec (.sub x y) s = .next t ∧
      (x ≠ vF → y ≠ vF → (t.getV vF).toNat = b ∧
        (t.getV x).toNat = ((s.getV x).toNat + 256 - (s.getV y).toNat) % 256) ∧
      (x = vF → y ≠ vF → (t.getV vF).toNat = (b + 256 - (s.getV y).toNat) % 256) ∧
      (x ≠ vF → y = vF → (t.getV vF).toNat = b ∧ (t.getV x).toNat = ((s.getV x).toNat + 256 - b) % 256) ∧
      (x = y → t.getV vF = 0 ∧ t.getV x = 0) ∧
      RegsUnchangedBut [x, vF] s t ∧ GoesOn s t ∧ UnchangedBut [.v, .pc, .stepResult] s t

/-- R108: SHR VX, whatever Y is. -/
def Obligations.ShiftRight : Prop :=
  ∀ (s : State) (x y : Nibble),
    ∃ t, exec (.shr x y) s = .next t ∧
      (x ≠ vF → (t.getV vF).toNat = (s.getV x).toNat % 2 ∧ (t.getV x).toNat = (s.getV x).toNat / 2) ∧
      (x = vF → t.getV vF = 0) ∧
      RegsUnchangedBut [x, vF] s t ∧ GoesOn s t ∧ UnchangedBut [.v, .pc, .stepResult] s t

/-- R109: SUBN VX, VY in each of the rule's cases; `b` is the strict no-borrow of the operands before the step. -/
def Obligations.SubtractReversed : Prop :=
  ∀ (s : State) (x y : Nibble) (b : Nat), b = (if (s.getV y).toNat > (s.getV x).toNat then 1 else 0) →
    ∃ t, exec (.subn x y) s = .next t ∧
      (x ≠ vF → y ≠ vF → (t.getV vF).toNat = b ∧
        (t.getV x).toNat = ((s.getV y).toNat + 256 - (s.getV x).toNat) % 256) ∧
      (x = vF → y ≠ vF → (t.getV vF).toNat = ((s.getV y).toNat + 256 - b) % 256) ∧
      (x ≠ vF → y = vF → (t.getV vF).toNat = b ∧ (t.getV x).toNat = (b + 256 - (s.getV x).toNat) % 256) ∧
      (x = y → t.getV vF = 0 ∧ t.getV x = 0) ∧
      RegsUnchangedBut [x, vF] s t ∧ GoesOn s t ∧ UnchangedBut [.v, .pc, .stepResult] s t

/-- R110: SHL VX, whatever Y is. -/
def Obligations.ShiftLeft : Prop :=
  ∀ (s : State) (x y : Nibble),
    ∃ t, exec (.shl x y) s = .next t ∧
      (x ≠ vF → (t.getV vF).toNat = (s.getV x).toNat / 128 ∧
        (t.getV x).toNat = 2 * (s.getV x).toNat % 256) ∧
      (x = vF → (t.getV vF).toNat = 2 * ((s.getV x).toNat / 128)) ∧
      RegsUnchangedBut [x, vF] s t ∧ GoesOn s t ∧ UnchangedBut [.v, .pc, .stepResult] s t

/-- R111: RND VX, NN writes the random input under the mask, for every random byte. The byte on the port is then used
up, so the model's own fields for it may change (log 3). -/
def Obligations.RandomUnderMask : Prop :=
  ∀ (s : State) (x : Nibble) (nn : Byte),
    ∃ t, exec (.rnd x nn) s = .next t ∧
      (∀ b < 8, (t.getV x).getLsbD b = (s.randIn.getLsbD b && nn.getLsbD b)) ∧
      RegsUnchangedBut [x] s t ∧ GoesOn s t ∧ UnchangedBut [.v, .pc, .stepResult, .randIn, .draws] s t

/-! ## Index and memory (spec/43_index_memory.md) -/

/-- R130, R132: LD I, NNN, and LD F, VX, which is V[X] × 5 unmasked. -/
def Obligations.LoadIndex : Prop :=
  (∀ (s : State) (nnn : BitVec 12), ∃ t, exec (.ldI nnn) s = .next t ∧ t.i.toNat = nnn.toNat ∧ GoesOn s t ∧
    UnchangedBut [.i, .pc, .stepResult] s t) ∧
  (∀ (s : State) (x : Nibble), ∃ t, exec (.ldF x) s = .next t ∧ t.i.toNat = (s.getV x).toNat * 5 ∧ GoesOn s t ∧
    UnchangedBut [.i, .pc, .stepResult] s t)

/-- R131: ADD I, VX in both of the rule's cases; `c` is the overflow past 0xFFF of the operands before the step. -/
def Obligations.AddToIndex : Prop :=
  ∀ (s : State) (x : Nibble) (c : Nat), c = (if s.i.toNat + (s.getV x).toNat > 0xFFF then 1 else 0) →
    ∃ t, exec (.addI x) s = .next t ∧ (t.getV vF).toNat = c ∧
      (x ≠ vF → t.i.toNat = (s.i.toNat + (s.getV x).toNat) % 4096) ∧
      (x = vF → t.i.toNat = (s.i.toNat + c) % 4096) ∧
      RegsUnchangedBut [vF] s t ∧ GoesOn s t ∧ UnchangedBut [.v, .i, .pc, .stepResult] s t

/-- R133: LD B, VX stores the hundreds, tens and ones of V[X] at I, I + 1, I + 2 and no other byte; it faults when
I + 2 is above 0xFFF. -/
def Obligations.StoreDecimalDigits : Prop :=
  ∀ (s : State) (x : Nibble),
    (s.indexAddr + 2 ≤ 0xFFF →
      ∃ t, exec (.ldB x) s = .next t ∧
        (t.peek s.indexAddr).toNat = (s.getV x).toNat / 100 ∧
        (t.peek (s.indexAddr + 1)).toNat = (s.getV x).toNat / 10 % 10 ∧
        (t.peek (s.indexAddr + 2)).toNat = (s.getV x).toNat % 10 ∧
        (∀ a, a < s.indexAddr ∨ s.indexAddr + 2 < a → t.peek a = s.peek a) ∧
        GoesOn s t ∧ UnchangedBut [.mem, .pc, .stepResult] s t) ∧
    (s.indexAddr + 2 > 0xFFF →
      ∃ t, exec (.ldB x) s = .next t ∧ FaultEntry .addressOutOfRange (encode (.ldB x)) s t)

/-- R134: LD [I], VX stores V[0] to V[X] at I to I + X and no other byte; it faults when I + X is above 0xFFF. -/
def Obligations.StoreRegisters : Prop :=
  ∀ (s : State) (x : Nibble),
    (s.indexAddr + x.toNat ≤ 0xFFF →
      ∃ t, exec (.storeRegs x) s = .next t ∧
        (∀ r : Nibble, r.toNat ≤ x.toNat → t.peek (s.indexAddr + r.toNat) = s.getV r) ∧
        (∀ a, a < s.indexAddr ∨ s.indexAddr + x.toNat < a → t.peek a = s.peek a) ∧
        GoesOn s t ∧ UnchangedBut [.mem, .pc, .stepResult] s t) ∧
    (s.indexAddr + x.toNat > 0xFFF →
      ∃ t, exec (.storeRegs x) s = .next t ∧ FaultEntry .addressOutOfRange (encode (.storeRegs x)) s t)

/-- R135: LD VX, [I] loads V[0] to V[X] from I to I + X and no other register; it faults when I + X is above 0xFFF. -/
def Obligations.LoadRegisters : Prop :=
  ∀ (s : State) (x : Nibble),
    (s.indexAddr + x.toNat ≤ 0xFFF →
      ∃ t, exec (.loadRegs x) s = .next t ∧
        (∀ r : Nibble, t.getV r = if r.toNat ≤ x.toNat then s.peek (s.indexAddr + r.toNat) else s.getV r) ∧
        GoesOn s t ∧ UnchangedBut [.v, .pc, .stepResult] s t) ∧
    (s.indexAddr + x.toNat > 0xFFF →
      ∃ t, exec (.loadRegs x) s = .next t ∧ FaultEntry .addressOutOfRange (encode (.loadRegs x)) s t)

/-! ## Keys and timers (spec/44_keys_timers.md) -/

/-- R150, R151: SKP and SKNP skip when key V[X] is, or is not, pressed; V[X] above 15 faults with
KeyIndexOutOfRange. -/
def Obligations.SkipsOnKey : Prop :=
  ∀ (s : State) (x : Nibble),
    ((s.getV x).toNat ≤ 15 →
      (∃ t, exec (.skp x) s = .next t ∧
        t.pc = (if s.keys.getLsbD (s.getV x).toNat = true then s.pc + 2 + 2 else s.pc + 2) ∧
        t.stepResult = .ok ∧ UnchangedBut [.pc, .stepResult] s t) ∧
      (∃ t, exec (.sknp x) s = .next t ∧
        t.pc = (if s.keys.getLsbD (s.getV x).toNat = true then s.pc + 2 else s.pc + 2 + 2) ∧
        t.stepResult = .ok ∧ UnchangedBut [.pc, .stepResult] s t)) ∧
    ((s.getV x).toNat > 15 →
      (∃ t, exec (.skp x) s = .next t ∧ FaultEntry .keyIndexOutOfRange (encode (.skp x)) s t) ∧
      (∃ t, exec (.sknp x) s = .next t ∧ FaultEntry .keyIndexOutOfRange (encode (.sknp x)) s t))

/-- R152: LD VX, DT. -/
def Obligations.ReadDelayTimer : Prop :=
  ∀ (s : State) (x : Nibble), ∃ t, exec (.ldVxDt x) s = .next t ∧ t.getV x = s.dt ∧ RegsUnchangedBut [x] s t ∧
    GoesOn s t ∧ UnchangedBut [.v, .pc, .stepResult] s t

/-- R153: LD VX, K takes the lowest pressed key; with none pressed pc stays at the instruction and nothing changes. -/
def Obligations.WaitForKey : Prop :=
  ∀ (s : State) (x : Nibble),
    (∀ k < 16, s.keys.getLsbD k = true → (∀ j < k, s.keys.getLsbD j = false) →
      ∃ t, exec (.ldVxK x) s = .next t ∧ (t.getV x).toNat = k ∧ RegsUnchangedBut [x] s t ∧ GoesOn s t ∧
        UnchangedBut [.v, .pc, .stepResult] s t) ∧
    ((∀ k < 16, s.keys.getLsbD k = false) →
      ∃ t, exec (.ldVxK x) s = .next t ∧ t.pc = s.pc ∧ t.stepResult = .ok ∧ UnchangedBut [.stepResult] s t)

/-- R154, R155, R183: LD DT, VX and LD ST, VX; sound_on is 1 from the step's end exactly when V[X] is above 0. -/
def Obligations.SetTimers : Prop :=
  ∀ (s : State) (x : Nibble),
    (∃ t, exec (.ldDtVx x) s = .next t ∧ t.dt = s.getV x ∧ GoesOn s t ∧
      UnchangedBut [.dt, .pc, .stepResult] s t) ∧
    (∃ t, exec (.ldStVx x) s = .next t ∧ t.st = s.getV x ∧ (t.soundOn = true ↔ (s.getV x).toNat > 0) ∧
      GoesOn s t ∧ UnchangedBut [.st, .pc, .stepResult] s t)

/-! ## Host operations (spec/60_exceptions.md, spec/70_reset_and_hazards.md) -/

/-- R180: TICK lowers each timer by one while it is above zero, in READY and FAULTED, and touches nothing else; it is
refused while UNINIT. -/
def Obligations.TickCountsDown : Prop :=
  ∀ s : State,
    (s.rs = .uninit → s.tick = (.refusedNotInitialized, s)) ∧
    (s.rs ≠ .uninit → s.tick.1 = .ok ∧
      (s.dt.toNat > 0 → s.tick.2.dt.toNat + 1 = s.dt.toNat) ∧ (s.dt.toNat = 0 → s.tick.2.dt.toNat = 0) ∧
      (s.st.toNat > 0 → s.tick.2.st.toNat + 1 = s.st.toNat) ∧ (s.st.toNat = 0 → s.tick.2.st.toNat = 0) ∧
      UnchangedBut [.dt, .st] s s.tick.2)

/-- R181: SET_KEYS replaces all 16 keys in every run state and changes nothing else. -/
def Obligations.SetKeysReplacesAll : Prop :=
  ∀ (s : State) (k : BitVec 16), (∀ b < 16, (s.setKeys k).key b = k.getLsbD b) ∧ UnchangedBut [.keys] s (s.setKeys k)

/-- R201: SOFT_RESET, from every run state, returns OK, clears the working state, makes RS READY with no fault record,
and leaves M untouched. -/
def Obligations.SoftResetClears : Prop :=
  ∀ s : State, s.softResetOp = (.ok, s.softReset) ∧
    (∀ y < 32, ∀ x < 64, s.softReset.fb.pixel y x = false) ∧ (∀ k < 16, s.softReset.key k = false) ∧
    (∀ r, s.softReset.getV r = 0) ∧ s.softReset.pc = 0x200 ∧ s.softReset.i = 0 ∧ s.softReset.dt = 0 ∧
    s.softReset.st = 0 ∧ s.softReset.stack = [] ∧ s.softReset.rs = .ready ∧ s.softReset.fr = none ∧
    (∀ a, s.softReset.peek a = s.peek a)

/-- R202: an accepted HARD_RESET leaves FONT at 0x000-0x04F, zero to 0x1FF, the ROM from 0x200 and zero after it, and
everything else as SOFT_RESET does. -/
def Obligations.HardResetLoadsRom : Prop :=
  ∀ (s : State) (rom : List Byte), rom.length ≤ 3584 →
    (s.hardReset rom).1 = .ok ∧
    (∀ (a : Nat) (h : a < 80), (s.hardReset rom).2.peek a = s.cfg.font[a]) ∧
    (∀ a, 0x50 ≤ a → a < 0x200 → (s.hardReset rom).2.peek a = 0) ∧
    (∀ (j : Nat) (h : j < rom.length), (s.hardReset rom).2.peek (0x200 + j) = rom[j]) ∧
    (∀ a, 0x200 + rom.length ≤ a → a ≤ 0xFFF → (s.hardReset rom).2.peek a = 0) ∧
    UnchangedBut [.mem] s.softReset (s.hardReset rom).2

/-- R203: a ROM of more than 3584 bytes is rejected as a whole and changes nothing. -/
def Obligations.HardResetRejectsLongRom : Prop :=
  ∀ (s : State) (rom : List Byte), rom.length > 3584 → s.hardReset rom = (.romTooLarge, s)

/-- R204: two SOFT_RESETs leave what one leaves, and two HARD_RESETs with the same ROM what one leaves; and no host
operation but HARD_RESET and the steps changes a byte of M. -/
def Obligations.ResetsAreIdempotent : Prop :=
  ∀ s : State, s.softReset.softReset = s.softReset ∧
    (∀ rom : List Byte, (s.hardReset rom).2.hardReset rom = s.hardReset rom) ∧
    ∀ (op : HostOp) (t : State), s.apply op = .next t → (∀ rom, op ≠ .hardReset rom) → (∀ r, op ≠ .step r) →
      ∀ a, t.peek a = s.peek a

/-- The model's `State.reset` is what an accepted HARD_RESET with an empty ROM leaves of any state with the default
parameters, but for the port step_result and the model's own fields (the model's choice: logs 2, 3, 5). -/
def Obligations.ResetIsEmptyHardReset : Prop :=
  ∀ s : State, s.cfg = Config.default →
    (s.hardReset []).1 = .ok ∧ UnchangedBut [.stepResult, .randIn, .draws] State.reset (s.hardReset []).2

/-! ## The invariant of the fault record -/

/-- From R172, R173 and R180-R181: that a fault record names the pc, `FR.addr = pc` while RS = FAULTED, is kept by every
STEP and by every other host operation, from every state that meets it. -/
def Obligations.FaultRecordNamesPc : Prop :=
  ∀ s : State, (∀ fr, s.rs = .faulted fr → fr.addr = s.pc) →
    (∀ t, step s = .next t → ∀ fr, t.rs = .faulted fr → fr.addr = t.pc) ∧
    (∀ (op : HostOp) (t : State), s.apply op = .next t → ∀ fr, t.rs = .faulted fr → fr.addr = t.pc)
end

