-- ==== Sys2Proof/Laws/Decode.lean ====
section
/-! SUPPORT. Words as their fields (spec/30_encoding.md R53, R54): what each field of an encoded word is, that a word is
the concatenation of its fields, and what the masks of R56 leave of a word. -/

namespace Sys2Proof

/-! ### Bits of the three shapes of word -/

theorem getLsbD_four (a b c d : Nibble) (i : Nat) : (a ++ b ++ c ++ d : OpWord).getLsbD i =
    if i < 4 then d.getLsbD i else if i < 8 then c.getLsbD (i - 4) else if i < 12 then b.getLsbD (i - 8)
      else a.getLsbD (i - 12) := by
  refine (BitVec.getLsbD_append (x := a ++ b ++ c) (y := d) (i := i)).trans ?_
  rw [BitVec.getLsbD_append, BitVec.getLsbD_append]
  repeat' split
  all_goals first | omega | rfl

theorem getLsbD_two_eight (a b : Nibble) (c : Byte) (i : Nat) : (a ++ b ++ c : OpWord).getLsbD i =
    if i < 8 then c.getLsbD i else if i < 12 then b.getLsbD (i - 8) else a.getLsbD (i - 12) := by
  refine (BitVec.getLsbD_append (x := a ++ b) (y := c) (i := i)).trans ?_
  rw [BitVec.getLsbD_append]
  repeat' split
  all_goals first | omega | rfl

theorem getLsbD_one_twelve (a : Nibble) (b : BitVec 12) (i : Nat) : (a ++ b : OpWord).getLsbD i =
    if i < 12 then b.getLsbD i else a.getLsbD (i - 12) := by
  refine (BitVec.getLsbD_append (x := a) (y := b) (i := i)).trans ?_
  split <;> rfl

theorem getLsbD_bytes (a b : Byte) (i : Nat) : (a ++ b : OpWord).getLsbD i =
    if i < 8 then b.getLsbD i else a.getLsbD (i - 8) := by
  refine (BitVec.getLsbD_append (x := a) (y := b) (i := i)).trans ?_
  split <;> rfl

/-! ### Fields of the three shapes of word -/

@[simp] theorem top_four (a b c d : Nibble) : OpWord.top (a ++ b ++ c ++ d : OpWord) = a := by
  apply BitVec.eq_of_getLsbD_eq
  intro i hi
  rw [OpWord.top, BitVec.getLsbD_extractLsb', getLsbD_four]
  interval_cases i <;> simp

@[simp] theorem x_four (a b c d : Nibble) : OpWord.x (a ++ b ++ c ++ d : OpWord) = b := by
  apply BitVec.eq_of_getLsbD_eq
  intro i hi
  rw [OpWord.x, BitVec.getLsbD_extractLsb', getLsbD_four]
  interval_cases i <;> simp

@[simp] theorem y_four (a b c d : Nibble) : OpWord.y (a ++ b ++ c ++ d : OpWord) = c := by
  apply BitVec.eq_of_getLsbD_eq
  intro i hi
  rw [OpWord.y, BitVec.getLsbD_extractLsb', getLsbD_four]
  interval_cases i <;> simp

@[simp] theorem n_four (a b c d : Nibble) : OpWord.n (a ++ b ++ c ++ d : OpWord) = d := by
  apply BitVec.eq_of_getLsbD_eq
  intro i hi
  rw [OpWord.n, BitVec.getLsbD_extractLsb', getLsbD_four]
  interval_cases i <;> simp

@[simp] theorem top_two_eight (a b : Nibble) (c : Byte) : OpWord.top (a ++ b ++ c : OpWord) = a := by
  apply BitVec.eq_of_getLsbD_eq
  intro i hi
  rw [OpWord.top, BitVec.getLsbD_extractLsb', getLsbD_two_eight]
  interval_cases i <;> simp

@[simp] theorem x_two_eight (a b : Nibble) (c : Byte) : OpWord.x (a ++ b ++ c : OpWord) = b := by
  apply BitVec.eq_of_getLsbD_eq
  intro i hi
  rw [OpWord.x, BitVec.getLsbD_extractLsb', getLsbD_two_eight]
  interval_cases i <;> simp

@[simp] theorem nn_two_eight (a b : Nibble) (c : Byte) : OpWord.nn (a ++ b ++ c : OpWord) = c := by
  apply BitVec.eq_of_getLsbD_eq
  intro i hi
  rw [OpWord.nn, BitVec.getLsbD_extractLsb', getLsbD_two_eight]
  interval_cases i <;> simp

@[simp] theorem top_one_twelve (a : Nibble) (b : BitVec 12) : OpWord.top (a ++ b : OpWord) = a := by
  apply BitVec.eq_of_getLsbD_eq
  intro i hi
  rw [OpWord.top, BitVec.getLsbD_extractLsb', getLsbD_one_twelve]
  interval_cases i <;> simp

@[simp] theorem nnn_one_twelve (a : Nibble) (b : BitVec 12) : OpWord.nnn (a ++ b : OpWord) = b := by
  apply BitVec.eq_of_getLsbD_eq
  intro i hi
  rw [OpWord.nnn, BitVec.getLsbD_extractLsb', getLsbD_one_twelve]
  interval_cases i <;> simp

/-! ### A word is its fields -/

theorem four_fields (op : OpWord) : (op.top ++ op.x ++ op.y ++ op.n : OpWord) = op := by
  apply BitVec.eq_of_getLsbD_eq
  intro i hi
  rw [getLsbD_four]
  simp only [OpWord.top, OpWord.x, OpWord.y, OpWord.n, BitVec.getLsbD_extractLsb']
  interval_cases i <;> simp

theorem two_eight_fields (op : OpWord) : (op.top ++ op.x ++ op.nn : OpWord) = op := by
  apply BitVec.eq_of_getLsbD_eq
  intro i hi
  rw [getLsbD_two_eight]
  simp only [OpWord.top, OpWord.x, OpWord.nn, BitVec.getLsbD_extractLsb']
  interval_cases i <;> simp

theorem one_twelve_fields (op : OpWord) : (op.top ++ op.nnn : OpWord) = op := by
  apply BitVec.eq_of_getLsbD_eq
  intro i hi
  rw [getLsbD_one_twelve]
  simp only [OpWord.top, OpWord.nnn, BitVec.getLsbD_extractLsb']
  interval_cases i <;> simp

/-- A word is its two bytes, the high one first (R36). -/
@[simp] theorem wordOfBytes_bytes (op : OpWord) : wordOfBytes (highByte op) (lowByte op) = op := by
  apply BitVec.eq_of_getLsbD_eq
  intro i hi
  rw [wordOfBytes, getLsbD_bytes]
  simp only [highByte, lowByte, BitVec.getLsbD_extractLsb']
  interval_cases i <;> simp

/-! ### What the masks of R56 leave -/

theorem and_F000 (op : OpWord) : op &&& 0xF000#16 = (op.top ++ 0x0#4 ++ 0x0#4 ++ 0x0#4 : OpWord) := by
  apply BitVec.eq_of_getLsbD_eq
  intro i hi
  rw [BitVec.getLsbD_and, getLsbD_four]
  simp only [OpWord.top, BitVec.getLsbD_extractLsb']
  interval_cases i <;> simp

theorem and_F00F (op : OpWord) : op &&& 0xF00F#16 = (op.top ++ 0x0#4 ++ 0x0#4 ++ op.n : OpWord) := by
  apply BitVec.eq_of_getLsbD_eq
  intro i hi
  rw [BitVec.getLsbD_and, getLsbD_four]
  simp only [OpWord.top, OpWord.n, BitVec.getLsbD_extractLsb']
  interval_cases i <;> simp

theorem and_F0FF (op : OpWord) : op &&& 0xF0FF#16 = (op.top ++ 0x0#4 ++ op.nn : OpWord) := by
  apply BitVec.eq_of_getLsbD_eq
  intro i hi
  rw [BitVec.getLsbD_and, getLsbD_two_eight]
  simp only [OpWord.top, OpWord.nn, BitVec.getLsbD_extractLsb']
  interval_cases i <;> simp

theorem and_FFFF (op : OpWord) : op &&& 0xFFFF#16 = op := by
  apply BitVec.eq_of_getLsbD_eq
  intro i hi
  rw [BitVec.getLsbD_and]
  interval_cases i <;> simp

end Sys2Proof
end

