-- ==== Sys2Proof/Laws/State.lean ====
section
/-! SUPPORT. One lemma per field per named update of State, each true by rfl, and the laws of the register accessors. -/

namespace Sys2Proof.Machine

/-! ### setV -/

@[simp] theorem State.setV_v (s : State) (x : Nibble) (b : Byte) : (s.setV x b).v = s.v.set x.toNat b x.isLt := rfl
@[simp] theorem State.setV_i (s : State) (x : Nibble) (b : Byte) : (s.setV x b).i = s.i := rfl
@[simp] theorem State.setV_pc (s : State) (x : Nibble) (b : Byte) : (s.setV x b).pc = s.pc := rfl
@[simp] theorem State.setV_stack (s : State) (x : Nibble) (b : Byte) : (s.setV x b).stack = s.stack := rfl
@[simp] theorem State.setV_dt (s : State) (x : Nibble) (b : Byte) : (s.setV x b).dt = s.dt := rfl
@[simp] theorem State.setV_st (s : State) (x : Nibble) (b : Byte) : (s.setV x b).st = s.st := rfl
@[simp] theorem State.setV_fb (s : State) (x : Nibble) (b : Byte) : (s.setV x b).fb = s.fb := rfl
@[simp] theorem State.setV_keys (s : State) (x : Nibble) (b : Byte) : (s.setV x b).keys = s.keys := rfl
@[simp] theorem State.setV_mem (s : State) (x : Nibble) (b : Byte) : (s.setV x b).mem = s.mem := rfl
@[simp] theorem State.setV_rs (s : State) (x : Nibble) (b : Byte) : (s.setV x b).rs = s.rs := rfl
@[simp] theorem State.setV_stepResult (s : State) (x : Nibble) (b : Byte) : (s.setV x b).stepResult = s.stepResult := rfl
@[simp] theorem State.setV_randIn (s : State) (x : Nibble) (b : Byte) : (s.setV x b).randIn = s.randIn := rfl
@[simp] theorem State.setV_draws (s : State) (x : Nibble) (b : Byte) : (s.setV x b).draws = s.draws := rfl
@[simp] theorem State.setV_cfg (s : State) (x : Nibble) (b : Byte) : (s.setV x b).cfg = s.cfg := rfl

/-! ### setI -/

@[simp] theorem State.setI_v (s : State) (a : Addr) : (s.setI a).v = s.v := rfl
@[simp] theorem State.setI_i (s : State) (a : Addr) : (s.setI a).i = a := rfl
@[simp] theorem State.setI_pc (s : State) (a : Addr) : (s.setI a).pc = s.pc := rfl
@[simp] theorem State.setI_stack (s : State) (a : Addr) : (s.setI a).stack = s.stack := rfl
@[simp] theorem State.setI_dt (s : State) (a : Addr) : (s.setI a).dt = s.dt := rfl
@[simp] theorem State.setI_st (s : State) (a : Addr) : (s.setI a).st = s.st := rfl
@[simp] theorem State.setI_fb (s : State) (a : Addr) : (s.setI a).fb = s.fb := rfl
@[simp] theorem State.setI_keys (s : State) (a : Addr) : (s.setI a).keys = s.keys := rfl
@[simp] theorem State.setI_mem (s : State) (a : Addr) : (s.setI a).mem = s.mem := rfl
@[simp] theorem State.setI_rs (s : State) (a : Addr) : (s.setI a).rs = s.rs := rfl
@[simp] theorem State.setI_stepResult (s : State) (a : Addr) : (s.setI a).stepResult = s.stepResult := rfl
@[simp] theorem State.setI_randIn (s : State) (a : Addr) : (s.setI a).randIn = s.randIn := rfl
@[simp] theorem State.setI_draws (s : State) (a : Addr) : (s.setI a).draws = s.draws := rfl
@[simp] theorem State.setI_cfg (s : State) (a : Addr) : (s.setI a).cfg = s.cfg := rfl

/-! ### setPc -/

@[simp] theorem State.setPc_v (s : State) (a : Addr) : (s.setPc a).v = s.v := rfl
@[simp] theorem State.setPc_i (s : State) (a : Addr) : (s.setPc a).i = s.i := rfl
@[simp] theorem State.setPc_pc (s : State) (a : Addr) : (s.setPc a).pc = a := rfl
@[simp] theorem State.setPc_stack (s : State) (a : Addr) : (s.setPc a).stack = s.stack := rfl
@[simp] theorem State.setPc_dt (s : State) (a : Addr) : (s.setPc a).dt = s.dt := rfl
@[simp] theorem State.setPc_st (s : State) (a : Addr) : (s.setPc a).st = s.st := rfl
@[simp] theorem State.setPc_fb (s : State) (a : Addr) : (s.setPc a).fb = s.fb := rfl
@[simp] theorem State.setPc_keys (s : State) (a : Addr) : (s.setPc a).keys = s.keys := rfl
@[simp] theorem State.setPc_mem (s : State) (a : Addr) : (s.setPc a).mem = s.mem := rfl
@[simp] theorem State.setPc_rs (s : State) (a : Addr) : (s.setPc a).rs = s.rs := rfl
@[simp] theorem State.setPc_stepResult (s : State) (a : Addr) : (s.setPc a).stepResult = s.stepResult := rfl
@[simp] theorem State.setPc_randIn (s : State) (a : Addr) : (s.setPc a).randIn = s.randIn := rfl
@[simp] theorem State.setPc_draws (s : State) (a : Addr) : (s.setPc a).draws = s.draws := rfl
@[simp] theorem State.setPc_cfg (s : State) (a : Addr) : (s.setPc a).cfg = s.cfg := rfl

/-! ### skipIf -/

@[simp] theorem State.skipIf_v (s : State) (c : Bool) : (s.skipIf c).v = s.v := rfl
@[simp] theorem State.skipIf_i (s : State) (c : Bool) : (s.skipIf c).i = s.i := rfl
@[simp] theorem State.skipIf_pc (s : State) (c : Bool) : (s.skipIf c).pc = if c then s.pc + 2 else s.pc := rfl
@[simp] theorem State.skipIf_stack (s : State) (c : Bool) : (s.skipIf c).stack = s.stack := rfl
@[simp] theorem State.skipIf_dt (s : State) (c : Bool) : (s.skipIf c).dt = s.dt := rfl
@[simp] theorem State.skipIf_st (s : State) (c : Bool) : (s.skipIf c).st = s.st := rfl
@[simp] theorem State.skipIf_fb (s : State) (c : Bool) : (s.skipIf c).fb = s.fb := rfl
@[simp] theorem State.skipIf_keys (s : State) (c : Bool) : (s.skipIf c).keys = s.keys := rfl
@[simp] theorem State.skipIf_mem (s : State) (c : Bool) : (s.skipIf c).mem = s.mem := rfl
@[simp] theorem State.skipIf_rs (s : State) (c : Bool) : (s.skipIf c).rs = s.rs := rfl
@[simp] theorem State.skipIf_stepResult (s : State) (c : Bool) : (s.skipIf c).stepResult = s.stepResult := rfl
@[simp] theorem State.skipIf_randIn (s : State) (c : Bool) : (s.skipIf c).randIn = s.randIn := rfl
@[simp] theorem State.skipIf_draws (s : State) (c : Bool) : (s.skipIf c).draws = s.draws := rfl
@[simp] theorem State.skipIf_cfg (s : State) (c : Bool) : (s.skipIf c).cfg = s.cfg := rfl

/-! ### setDt -/

@[simp] theorem State.setDt_v (s : State) (b : Byte) : (s.setDt b).v = s.v := rfl
@[simp] theorem State.setDt_i (s : State) (b : Byte) : (s.setDt b).i = s.i := rfl
@[simp] theorem State.setDt_pc (s : State) (b : Byte) : (s.setDt b).pc = s.pc := rfl
@[simp] theorem State.setDt_stack (s : State) (b : Byte) : (s.setDt b).stack = s.stack := rfl
@[simp] theorem State.setDt_dt (s : State) (b : Byte) : (s.setDt b).dt = b := rfl
@[simp] theorem State.setDt_st (s : State) (b : Byte) : (s.setDt b).st = s.st := rfl
@[simp] theorem State.setDt_fb (s : State) (b : Byte) : (s.setDt b).fb = s.fb := rfl
@[simp] theorem State.setDt_keys (s : State) (b : Byte) : (s.setDt b).keys = s.keys := rfl
@[simp] theorem State.setDt_mem (s : State) (b : Byte) : (s.setDt b).mem = s.mem := rfl
@[simp] theorem State.setDt_rs (s : State) (b : Byte) : (s.setDt b).rs = s.rs := rfl
@[simp] theorem State.setDt_stepResult (s : State) (b : Byte) : (s.setDt b).stepResult = s.stepResult := rfl
@[simp] theorem State.setDt_randIn (s : State) (b : Byte) : (s.setDt b).randIn = s.randIn := rfl
@[simp] theorem State.setDt_draws (s : State) (b : Byte) : (s.setDt b).draws = s.draws := rfl
@[simp] theorem State.setDt_cfg (s : State) (b : Byte) : (s.setDt b).cfg = s.cfg := rfl

/-! ### setSt -/

@[simp] theorem State.setSt_v (s : State) (b : Byte) : (s.setSt b).v = s.v := rfl
@[simp] theorem State.setSt_i (s : State) (b : Byte) : (s.setSt b).i = s.i := rfl
@[simp] theorem State.setSt_pc (s : State) (b : Byte) : (s.setSt b).pc = s.pc := rfl
@[simp] theorem State.setSt_stack (s : State) (b : Byte) : (s.setSt b).stack = s.stack := rfl
@[simp] theorem State.setSt_dt (s : State) (b : Byte) : (s.setSt b).dt = s.dt := rfl
@[simp] theorem State.setSt_st (s : State) (b : Byte) : (s.setSt b).st = b := rfl
@[simp] theorem State.setSt_fb (s : State) (b : Byte) : (s.setSt b).fb = s.fb := rfl
@[simp] theorem State.setSt_keys (s : State) (b : Byte) : (s.setSt b).keys = s.keys := rfl
@[simp] theorem State.setSt_mem (s : State) (b : Byte) : (s.setSt b).mem = s.mem := rfl
@[simp] theorem State.setSt_rs (s : State) (b : Byte) : (s.setSt b).rs = s.rs := rfl
@[simp] theorem State.setSt_stepResult (s : State) (b : Byte) : (s.setSt b).stepResult = s.stepResult := rfl
@[simp] theorem State.setSt_randIn (s : State) (b : Byte) : (s.setSt b).randIn = s.randIn := rfl
@[simp] theorem State.setSt_draws (s : State) (b : Byte) : (s.setSt b).draws = s.draws := rfl
@[simp] theorem State.setSt_cfg (s : State) (b : Byte) : (s.setSt b).cfg = s.cfg := rfl

/-! ### setFb -/

@[simp] theorem State.setFb_v (s : State) (d : Display) : (s.setFb d).v = s.v := rfl
@[simp] theorem State.setFb_i (s : State) (d : Display) : (s.setFb d).i = s.i := rfl
@[simp] theorem State.setFb_pc (s : State) (d : Display) : (s.setFb d).pc = s.pc := rfl
@[simp] theorem State.setFb_stack (s : State) (d : Display) : (s.setFb d).stack = s.stack := rfl
@[simp] theorem State.setFb_dt (s : State) (d : Display) : (s.setFb d).dt = s.dt := rfl
@[simp] theorem State.setFb_st (s : State) (d : Display) : (s.setFb d).st = s.st := rfl
@[simp] theorem State.setFb_fb (s : State) (d : Display) : (s.setFb d).fb = d := rfl
@[simp] theorem State.setFb_keys (s : State) (d : Display) : (s.setFb d).keys = s.keys := rfl
@[simp] theorem State.setFb_mem (s : State) (d : Display) : (s.setFb d).mem = s.mem := rfl
@[simp] theorem State.setFb_rs (s : State) (d : Display) : (s.setFb d).rs = s.rs := rfl
@[simp] theorem State.setFb_stepResult (s : State) (d : Display) : (s.setFb d).stepResult = s.stepResult := rfl
@[simp] theorem State.setFb_randIn (s : State) (d : Display) : (s.setFb d).randIn = s.randIn := rfl
@[simp] theorem State.setFb_draws (s : State) (d : Display) : (s.setFb d).draws = s.draws := rfl
@[simp] theorem State.setFb_cfg (s : State) (d : Display) : (s.setFb d).cfg = s.cfg := rfl

/-! ### poke -/

@[simp] theorem State.poke_v (s : State) (a : Nat) (b : Byte) : (s.poke a b).v = s.v := rfl
@[simp] theorem State.poke_i (s : State) (a : Nat) (b : Byte) : (s.poke a b).i = s.i := rfl
@[simp] theorem State.poke_pc (s : State) (a : Nat) (b : Byte) : (s.poke a b).pc = s.pc := rfl
@[simp] theorem State.poke_stack (s : State) (a : Nat) (b : Byte) : (s.poke a b).stack = s.stack := rfl
@[simp] theorem State.poke_dt (s : State) (a : Nat) (b : Byte) : (s.poke a b).dt = s.dt := rfl
@[simp] theorem State.poke_st (s : State) (a : Nat) (b : Byte) : (s.poke a b).st = s.st := rfl
@[simp] theorem State.poke_fb (s : State) (a : Nat) (b : Byte) : (s.poke a b).fb = s.fb := rfl
@[simp] theorem State.poke_keys (s : State) (a : Nat) (b : Byte) : (s.poke a b).keys = s.keys := rfl
@[simp] theorem State.poke_mem (s : State) (a : Nat) (b : Byte) : (s.poke a b).mem = s.mem.write s.cfg.font a b := rfl
@[simp] theorem State.poke_rs (s : State) (a : Nat) (b : Byte) : (s.poke a b).rs = s.rs := rfl
@[simp] theorem State.poke_stepResult (s : State) (a : Nat) (b : Byte) : (s.poke a b).stepResult = s.stepResult := rfl
@[simp] theorem State.poke_randIn (s : State) (a : Nat) (b : Byte) : (s.poke a b).randIn = s.randIn := rfl
@[simp] theorem State.poke_draws (s : State) (a : Nat) (b : Byte) : (s.poke a b).draws = s.draws := rfl
@[simp] theorem State.poke_cfg (s : State) (a : Nat) (b : Byte) : (s.poke a b).cfg = s.cfg := rfl

/-! ### nextRand -/

@[simp] theorem State.nextRand_v (s : State) : (s.nextRand).v = s.v := rfl
@[simp] theorem State.nextRand_i (s : State) : (s.nextRand).i = s.i := rfl
@[simp] theorem State.nextRand_pc (s : State) : (s.nextRand).pc = s.pc := rfl
@[simp] theorem State.nextRand_stack (s : State) : (s.nextRand).stack = s.stack := rfl
@[simp] theorem State.nextRand_dt (s : State) : (s.nextRand).dt = s.dt := rfl
@[simp] theorem State.nextRand_st (s : State) : (s.nextRand).st = s.st := rfl
@[simp] theorem State.nextRand_fb (s : State) : (s.nextRand).fb = s.fb := rfl
@[simp] theorem State.nextRand_keys (s : State) : (s.nextRand).keys = s.keys := rfl
@[simp] theorem State.nextRand_mem (s : State) : (s.nextRand).mem = s.mem := rfl
@[simp] theorem State.nextRand_rs (s : State) : (s.nextRand).rs = s.rs := rfl
@[simp] theorem State.nextRand_stepResult (s : State) : (s.nextRand).stepResult = s.stepResult := rfl
@[simp] theorem State.nextRand_randIn (s : State) : (s.nextRand).randIn = Config.randByte s.draws := rfl
@[simp] theorem State.nextRand_draws (s : State) : (s.nextRand).draws = s.draws + 1 := rfl
@[simp] theorem State.nextRand_cfg (s : State) : (s.nextRand).cfg = s.cfg := rfl

/-! ### pushed -/

@[simp] theorem State.pushed_v (s : State) (a : Addr) : (s.pushed a).v = s.v := rfl
@[simp] theorem State.pushed_i (s : State) (a : Addr) : (s.pushed a).i = s.i := rfl
@[simp] theorem State.pushed_pc (s : State) (a : Addr) : (s.pushed a).pc = s.pc := rfl
@[simp] theorem State.pushed_stack (s : State) (a : Addr) : (s.pushed a).stack = a :: s.stack := rfl
@[simp] theorem State.pushed_dt (s : State) (a : Addr) : (s.pushed a).dt = s.dt := rfl
@[simp] theorem State.pushed_st (s : State) (a : Addr) : (s.pushed a).st = s.st := rfl
@[simp] theorem State.pushed_fb (s : State) (a : Addr) : (s.pushed a).fb = s.fb := rfl
@[simp] theorem State.pushed_keys (s : State) (a : Addr) : (s.pushed a).keys = s.keys := rfl
@[simp] theorem State.pushed_mem (s : State) (a : Addr) : (s.pushed a).mem = s.mem := rfl
@[simp] theorem State.pushed_rs (s : State) (a : Addr) : (s.pushed a).rs = s.rs := rfl
@[simp] theorem State.pushed_stepResult (s : State) (a : Addr) : (s.pushed a).stepResult = s.stepResult := rfl
@[simp] theorem State.pushed_randIn (s : State) (a : Addr) : (s.pushed a).randIn = s.randIn := rfl
@[simp] theorem State.pushed_draws (s : State) (a : Addr) : (s.pushed a).draws = s.draws := rfl
@[simp] theorem State.pushed_cfg (s : State) (a : Addr) : (s.pushed a).cfg = s.cfg := rfl

/-! ### popTo -/

@[simp] theorem State.popTo_v (s : State) (a : Addr) (rest : List Addr) : (s.popTo a rest).v = s.v := rfl
@[simp] theorem State.popTo_i (s : State) (a : Addr) (rest : List Addr) : (s.popTo a rest).i = s.i := rfl
@[simp] theorem State.popTo_pc (s : State) (a : Addr) (rest : List Addr) : (s.popTo a rest).pc = a := rfl
@[simp] theorem State.popTo_stack (s : State) (a : Addr) (rest : List Addr) : (s.popTo a rest).stack = rest := rfl
@[simp] theorem State.popTo_dt (s : State) (a : Addr) (rest : List Addr) : (s.popTo a rest).dt = s.dt := rfl
@[simp] theorem State.popTo_st (s : State) (a : Addr) (rest : List Addr) : (s.popTo a rest).st = s.st := rfl
@[simp] theorem State.popTo_fb (s : State) (a : Addr) (rest : List Addr) : (s.popTo a rest).fb = s.fb := rfl
@[simp] theorem State.popTo_keys (s : State) (a : Addr) (rest : List Addr) : (s.popTo a rest).keys = s.keys := rfl
@[simp] theorem State.popTo_mem (s : State) (a : Addr) (rest : List Addr) : (s.popTo a rest).mem = s.mem := rfl
@[simp] theorem State.popTo_rs (s : State) (a : Addr) (rest : List Addr) : (s.popTo a rest).rs = s.rs := rfl
@[simp] theorem State.popTo_stepResult (s : State) (a : Addr) (rest : List Addr) : (s.popTo a rest).stepResult = s.stepResult := rfl
@[simp] theorem State.popTo_randIn (s : State) (a : Addr) (rest : List Addr) : (s.popTo a rest).randIn = s.randIn := rfl
@[simp] theorem State.popTo_draws (s : State) (a : Addr) (rest : List Addr) : (s.popTo a rest).draws = s.draws := rfl
@[simp] theorem State.popTo_cfg (s : State) (a : Addr) (rest : List Addr) : (s.popTo a rest).cfg = s.cfg := rfl

/-! ### advance -/

@[simp] theorem State.advance_v (s : State) : (s.advance).v = s.v := rfl
@[simp] theorem State.advance_i (s : State) : (s.advance).i = s.i := rfl
@[simp] theorem State.advance_pc (s : State) : (s.advance).pc = s.pc + 2 := rfl
@[simp] theorem State.advance_stack (s : State) : (s.advance).stack = s.stack := rfl
@[simp] theorem State.advance_dt (s : State) : (s.advance).dt = s.dt := rfl
@[simp] theorem State.advance_st (s : State) : (s.advance).st = s.st := rfl
@[simp] theorem State.advance_fb (s : State) : (s.advance).fb = s.fb := rfl
@[simp] theorem State.advance_keys (s : State) : (s.advance).keys = s.keys := rfl
@[simp] theorem State.advance_mem (s : State) : (s.advance).mem = s.mem := rfl
@[simp] theorem State.advance_rs (s : State) : (s.advance).rs = s.rs := rfl
@[simp] theorem State.advance_stepResult (s : State) : (s.advance).stepResult = .ok := rfl
@[simp] theorem State.advance_randIn (s : State) : (s.advance).randIn = s.randIn := rfl
@[simp] theorem State.advance_draws (s : State) : (s.advance).draws = s.draws := rfl
@[simp] theorem State.advance_cfg (s : State) : (s.advance).cfg = s.cfg := rfl

/-! ### diagEmptyStackReturn -/

@[simp] theorem State.diagEmptyStackReturn_v (s : State) : (s.diagEmptyStackReturn).v = s.v := rfl
@[simp] theorem State.diagEmptyStackReturn_i (s : State) : (s.diagEmptyStackReturn).i = s.i := rfl
@[simp] theorem State.diagEmptyStackReturn_pc (s : State) : (s.diagEmptyStackReturn).pc = s.pc := rfl
@[simp] theorem State.diagEmptyStackReturn_stack (s : State) : (s.diagEmptyStackReturn).stack = s.stack := rfl
@[simp] theorem State.diagEmptyStackReturn_dt (s : State) : (s.diagEmptyStackReturn).dt = s.dt := rfl
@[simp] theorem State.diagEmptyStackReturn_st (s : State) : (s.diagEmptyStackReturn).st = s.st := rfl
@[simp] theorem State.diagEmptyStackReturn_fb (s : State) : (s.diagEmptyStackReturn).fb = s.fb := rfl
@[simp] theorem State.diagEmptyStackReturn_keys (s : State) : (s.diagEmptyStackReturn).keys = s.keys := rfl
@[simp] theorem State.diagEmptyStackReturn_mem (s : State) : (s.diagEmptyStackReturn).mem = s.mem := rfl
@[simp] theorem State.diagEmptyStackReturn_rs (s : State) : (s.diagEmptyStackReturn).rs = s.rs := rfl
@[simp] theorem State.diagEmptyStackReturn_stepResult (s : State) : (s.diagEmptyStackReturn).stepResult = .okEmptyStackReturn := rfl
@[simp] theorem State.diagEmptyStackReturn_randIn (s : State) : (s.diagEmptyStackReturn).randIn = s.randIn := rfl
@[simp] theorem State.diagEmptyStackReturn_draws (s : State) : (s.diagEmptyStackReturn).draws = s.draws := rfl
@[simp] theorem State.diagEmptyStackReturn_cfg (s : State) : (s.diagEmptyStackReturn).cfg = s.cfg := rfl

/-! ### takeFault -/

@[simp] theorem State.takeFault_v (s : State) (kind : Fault) (op : OpWord) : (s.takeFault kind op).v = s.v := rfl
@[simp] theorem State.takeFault_i (s : State) (kind : Fault) (op : OpWord) : (s.takeFault kind op).i = s.i := rfl
@[simp] theorem State.takeFault_pc (s : State) (kind : Fault) (op : OpWord) : (s.takeFault kind op).pc = s.pc := rfl
@[simp] theorem State.takeFault_stack (s : State) (kind : Fault) (op : OpWord) : (s.takeFault kind op).stack = s.stack := rfl
@[simp] theorem State.takeFault_dt (s : State) (kind : Fault) (op : OpWord) : (s.takeFault kind op).dt = s.dt := rfl
@[simp] theorem State.takeFault_st (s : State) (kind : Fault) (op : OpWord) : (s.takeFault kind op).st = s.st := rfl
@[simp] theorem State.takeFault_fb (s : State) (kind : Fault) (op : OpWord) : (s.takeFault kind op).fb = s.fb := rfl
@[simp] theorem State.takeFault_keys (s : State) (kind : Fault) (op : OpWord) : (s.takeFault kind op).keys = s.keys := rfl
@[simp] theorem State.takeFault_mem (s : State) (kind : Fault) (op : OpWord) : (s.takeFault kind op).mem = s.mem := rfl
@[simp] theorem State.takeFault_rs (s : State) (kind : Fault) (op : OpWord) : (s.takeFault kind op).rs = .faulted ⟨kind, s.pc, op⟩ := rfl
@[simp] theorem State.takeFault_stepResult (s : State) (kind : Fault) (op : OpWord) : (s.takeFault kind op).stepResult = .fault kind := rfl
@[simp] theorem State.takeFault_randIn (s : State) (kind : Fault) (op : OpWord) : (s.takeFault kind op).randIn = s.randIn := rfl
@[simp] theorem State.takeFault_draws (s : State) (kind : Fault) (op : OpWord) : (s.takeFault kind op).draws = s.draws := rfl
@[simp] theorem State.takeFault_cfg (s : State) (kind : Fault) (op : OpWord) : (s.takeFault kind op).cfg = s.cfg := rfl

/-! ### takeFetchFault -/

@[simp] theorem State.takeFetchFault_v (s : State) (kind : Fault) : (s.takeFetchFault kind).v = s.v := rfl
@[simp] theorem State.takeFetchFault_i (s : State) (kind : Fault) : (s.takeFetchFault kind).i = s.i := rfl
@[simp] theorem State.takeFetchFault_pc (s : State) (kind : Fault) : (s.takeFetchFault kind).pc = s.pc := rfl
@[simp] theorem State.takeFetchFault_stack (s : State) (kind : Fault) : (s.takeFetchFault kind).stack = s.stack := rfl
@[simp] theorem State.takeFetchFault_dt (s : State) (kind : Fault) : (s.takeFetchFault kind).dt = s.dt := rfl
@[simp] theorem State.takeFetchFault_st (s : State) (kind : Fault) : (s.takeFetchFault kind).st = s.st := rfl
@[simp] theorem State.takeFetchFault_fb (s : State) (kind : Fault) : (s.takeFetchFault kind).fb = s.fb := rfl
@[simp] theorem State.takeFetchFault_keys (s : State) (kind : Fault) : (s.takeFetchFault kind).keys = s.keys := rfl
@[simp] theorem State.takeFetchFault_mem (s : State) (kind : Fault) : (s.takeFetchFault kind).mem = s.mem := rfl
@[simp] theorem State.takeFetchFault_rs (s : State) (kind : Fault) : (s.takeFetchFault kind).rs = .faulted ⟨kind, s.pc, Config.fetchFaultWord s.draws⟩ := rfl
@[simp] theorem State.takeFetchFault_stepResult (s : State) (kind : Fault) : (s.takeFetchFault kind).stepResult = .fault kind := rfl
@[simp] theorem State.takeFetchFault_randIn (s : State) (kind : Fault) : (s.takeFetchFault kind).randIn = s.randIn := rfl
@[simp] theorem State.takeFetchFault_draws (s : State) (kind : Fault) : (s.takeFetchFault kind).draws = s.draws + 1 := rfl
@[simp] theorem State.takeFetchFault_cfg (s : State) (kind : Fault) : (s.takeFetchFault kind).cfg = s.cfg := rfl

/-! ### repeatFault -/

@[simp] theorem State.repeatFault_v (s : State) (kind : Fault) : (s.repeatFault kind).v = s.v := rfl
@[simp] theorem State.repeatFault_i (s : State) (kind : Fault) : (s.repeatFault kind).i = s.i := rfl
@[simp] theorem State.repeatFault_pc (s : State) (kind : Fault) : (s.repeatFault kind).pc = s.pc := rfl
@[simp] theorem State.repeatFault_stack (s : State) (kind : Fault) : (s.repeatFault kind).stack = s.stack := rfl
@[simp] theorem State.repeatFault_dt (s : State) (kind : Fault) : (s.repeatFault kind).dt = s.dt := rfl
@[simp] theorem State.repeatFault_st (s : State) (kind : Fault) : (s.repeatFault kind).st = s.st := rfl
@[simp] theorem State.repeatFault_fb (s : State) (kind : Fault) : (s.repeatFault kind).fb = s.fb := rfl
@[simp] theorem State.repeatFault_keys (s : State) (kind : Fault) : (s.repeatFault kind).keys = s.keys := rfl
@[simp] theorem State.repeatFault_mem (s : State) (kind : Fault) : (s.repeatFault kind).mem = s.mem := rfl
@[simp] theorem State.repeatFault_rs (s : State) (kind : Fault) : (s.repeatFault kind).rs = s.rs := rfl
@[simp] theorem State.repeatFault_stepResult (s : State) (kind : Fault) : (s.repeatFault kind).stepResult = .fault kind := rfl
@[simp] theorem State.repeatFault_randIn (s : State) (kind : Fault) : (s.repeatFault kind).randIn = s.randIn := rfl
@[simp] theorem State.repeatFault_draws (s : State) (kind : Fault) : (s.repeatFault kind).draws = s.draws := rfl
@[simp] theorem State.repeatFault_cfg (s : State) (kind : Fault) : (s.repeatFault kind).cfg = s.cfg := rfl

/-! ### refuseStep -/

@[simp] theorem State.refuseStep_v (s : State) : (s.refuseStep).v = s.v := rfl
@[simp] theorem State.refuseStep_i (s : State) : (s.refuseStep).i = s.i := rfl
@[simp] theorem State.refuseStep_pc (s : State) : (s.refuseStep).pc = s.pc := rfl
@[simp] theorem State.refuseStep_stack (s : State) : (s.refuseStep).stack = s.stack := rfl
@[simp] theorem State.refuseStep_dt (s : State) : (s.refuseStep).dt = s.dt := rfl
@[simp] theorem State.refuseStep_st (s : State) : (s.refuseStep).st = s.st := rfl
@[simp] theorem State.refuseStep_fb (s : State) : (s.refuseStep).fb = s.fb := rfl
@[simp] theorem State.refuseStep_keys (s : State) : (s.refuseStep).keys = s.keys := rfl
@[simp] theorem State.refuseStep_mem (s : State) : (s.refuseStep).mem = s.mem := rfl
@[simp] theorem State.refuseStep_rs (s : State) : (s.refuseStep).rs = s.rs := rfl
@[simp] theorem State.refuseStep_stepResult (s : State) : (s.refuseStep).stepResult = .refusedNotInitialized := rfl
@[simp] theorem State.refuseStep_randIn (s : State) : (s.refuseStep).randIn = s.randIn := rfl
@[simp] theorem State.refuseStep_draws (s : State) : (s.refuseStep).draws = s.draws := rfl
@[simp] theorem State.refuseStep_cfg (s : State) : (s.refuseStep).cfg = s.cfg := rfl

/-! ### setFlag -/

@[simp] theorem State.setFlag_v (s : State) (f : Bool) : (s.setFlag f).v = s.v.set 15 (Flags.toByte f) := rfl
@[simp] theorem State.setFlag_i (s : State) (f : Bool) : (s.setFlag f).i = s.i := rfl
@[simp] theorem State.setFlag_pc (s : State) (f : Bool) : (s.setFlag f).pc = s.pc := rfl
@[simp] theorem State.setFlag_stack (s : State) (f : Bool) : (s.setFlag f).stack = s.stack := rfl
@[simp] theorem State.setFlag_dt (s : State) (f : Bool) : (s.setFlag f).dt = s.dt := rfl
@[simp] theorem State.setFlag_st (s : State) (f : Bool) : (s.setFlag f).st = s.st := rfl
@[simp] theorem State.setFlag_fb (s : State) (f : Bool) : (s.setFlag f).fb = s.fb := rfl
@[simp] theorem State.setFlag_keys (s : State) (f : Bool) : (s.setFlag f).keys = s.keys := rfl
@[simp] theorem State.setFlag_mem (s : State) (f : Bool) : (s.setFlag f).mem = s.mem := rfl
@[simp] theorem State.setFlag_rs (s : State) (f : Bool) : (s.setFlag f).rs = s.rs := rfl
@[simp] theorem State.setFlag_stepResult (s : State) (f : Bool) : (s.setFlag f).stepResult = s.stepResult := rfl
@[simp] theorem State.setFlag_randIn (s : State) (f : Bool) : (s.setFlag f).randIn = s.randIn := rfl
@[simp] theorem State.setFlag_draws (s : State) (f : Bool) : (s.setFlag f).draws = s.draws := rfl
@[simp] theorem State.setFlag_cfg (s : State) (f : Bool) : (s.setFlag f).cfg = s.cfg := rfl

/-! ### softReset -/

@[simp] theorem State.softReset_v (s : State) : (s.softReset).v = Vector.replicate 16 0 := rfl
@[simp] theorem State.softReset_i (s : State) : (s.softReset).i = 0 := rfl
@[simp] theorem State.softReset_pc (s : State) : (s.softReset).pc = 0x200 := rfl
@[simp] theorem State.softReset_stack (s : State) : (s.softReset).stack = [] := rfl
@[simp] theorem State.softReset_dt (s : State) : (s.softReset).dt = 0 := rfl
@[simp] theorem State.softReset_st (s : State) : (s.softReset).st = 0 := rfl
@[simp] theorem State.softReset_fb (s : State) : (s.softReset).fb = Display.blank := rfl
@[simp] theorem State.softReset_keys (s : State) : (s.softReset).keys = 0 := rfl
@[simp] theorem State.softReset_mem (s : State) : (s.softReset).mem = s.mem := rfl
@[simp] theorem State.softReset_rs (s : State) : (s.softReset).rs = .ready := rfl
@[simp] theorem State.softReset_stepResult (s : State) : (s.softReset).stepResult = s.stepResult := rfl
@[simp] theorem State.softReset_randIn (s : State) : (s.softReset).randIn = s.randIn := rfl
@[simp] theorem State.softReset_draws (s : State) : (s.softReset).draws = s.draws := rfl
@[simp] theorem State.softReset_cfg (s : State) : (s.softReset).cfg = s.cfg := rfl

/-! ### setKeys -/

@[simp] theorem State.setKeys_v (s : State) (k : BitVec 16) : (s.setKeys k).v = s.v := rfl
@[simp] theorem State.setKeys_i (s : State) (k : BitVec 16) : (s.setKeys k).i = s.i := rfl
@[simp] theorem State.setKeys_pc (s : State) (k : BitVec 16) : (s.setKeys k).pc = s.pc := rfl
@[simp] theorem State.setKeys_stack (s : State) (k : BitVec 16) : (s.setKeys k).stack = s.stack := rfl
@[simp] theorem State.setKeys_dt (s : State) (k : BitVec 16) : (s.setKeys k).dt = s.dt := rfl
@[simp] theorem State.setKeys_st (s : State) (k : BitVec 16) : (s.setKeys k).st = s.st := rfl
@[simp] theorem State.setKeys_fb (s : State) (k : BitVec 16) : (s.setKeys k).fb = s.fb := rfl
@[simp] theorem State.setKeys_keys (s : State) (k : BitVec 16) : (s.setKeys k).keys = k := rfl
@[simp] theorem State.setKeys_mem (s : State) (k : BitVec 16) : (s.setKeys k).mem = s.mem := rfl
@[simp] theorem State.setKeys_rs (s : State) (k : BitVec 16) : (s.setKeys k).rs = s.rs := rfl
@[simp] theorem State.setKeys_stepResult (s : State) (k : BitVec 16) : (s.setKeys k).stepResult = s.stepResult := rfl
@[simp] theorem State.setKeys_randIn (s : State) (k : BitVec 16) : (s.setKeys k).randIn = s.randIn := rfl
@[simp] theorem State.setKeys_draws (s : State) (k : BitVec 16) : (s.setKeys k).draws = s.draws := rfl
@[simp] theorem State.setKeys_cfg (s : State) (k : BitVec 16) : (s.setKeys k).cfg = s.cfg := rfl

/-! ### The register accessors, `peek` and `key` under the updates -/

/-- Reading a register after writing one. -/
theorem State.getV_setV (s : State) (x r : Nibble) (b : Byte) :
    (s.setV x b).getV r = if r = x then b else s.getV r := by
  simp only [State.getV, State.setV, Vector.getElem_set]
  by_cases h : r = x
  · simp [h]
  · have : ¬ x.toNat = r.toNat := fun e => h (BitVec.eq_of_toNat_eq e.symm)
    simp [h, this]

@[simp] theorem State.getV_setV_self (s : State) (x : Nibble) (b : Byte) : (s.setV x b).getV x = b := by
  simp [State.getV_setV]

theorem State.getV_setV_of_ne (s : State) {x r : Nibble} (b : Byte) (h : r ≠ x) :
    (s.setV x b).getV r = s.getV r := by
  simp [State.getV_setV, h]

theorem State.getV_setFlag (s : State) (f : Bool) (r : Nibble) :
    (s.setFlag f).getV r = if r = vF then Flags.toByte f else s.getV r := s.getV_setV vF r _

/-- Registers are read from V alone. -/
theorem State.getV_congr {s t : State} (h : t.v = s.v) (r : Nibble) : t.getV r = s.getV r := by
  simp [State.getV, h]

/-- Memory is read from M and FONT alone. -/
theorem State.peek_congr {s t : State} (hm : t.mem = s.mem) (hc : t.cfg = s.cfg) (a : Nat) :
    t.peek a = s.peek a := by
  simp [State.peek, hm, hc]

@[simp] theorem State.setV_peek (s : State) (x : Nibble) (b : Byte) (q : Nat) : (s.setV x b).peek q = s.peek q := rfl
@[simp] theorem State.setV_key (s : State) (x : Nibble) (b : Byte) (q : Nat) : (s.setV x b).key q = s.key q := rfl
@[simp] theorem State.setV_lowestKey (s : State) (x : Nibble) (b : Byte) : (s.setV x b).lowestKey = s.lowestKey := rfl
@[simp] theorem State.setV_indexAddr (s : State) (x : Nibble) (b : Byte) : (s.setV x b).indexAddr = s.indexAddr := rfl
@[simp] theorem State.setI_getV (s : State) (a : Addr) (r : Nibble) : (s.setI a).getV r = s.getV r := rfl
@[simp] theorem State.setI_peek (s : State) (a : Addr) (q : Nat) : (s.setI a).peek q = s.peek q := rfl
@[simp] theorem State.setI_key (s : State) (a : Addr) (q : Nat) : (s.setI a).key q = s.key q := rfl
@[simp] theorem State.setI_lowestKey (s : State) (a : Addr) : (s.setI a).lowestKey = s.lowestKey := rfl
@[simp] theorem State.setPc_getV (s : State) (a : Addr) (r : Nibble) : (s.setPc a).getV r = s.getV r := rfl
@[simp] theorem State.setPc_peek (s : State) (a : Addr) (q : Nat) : (s.setPc a).peek q = s.peek q := rfl
@[simp] theorem State.setPc_key (s : State) (a : Addr) (q : Nat) : (s.setPc a).key q = s.key q := rfl
@[simp] theorem State.setPc_lowestKey (s : State) (a : Addr) : (s.setPc a).lowestKey = s.lowestKey := rfl
@[simp] theorem State.setPc_indexAddr (s : State) (a : Addr) : (s.setPc a).indexAddr = s.indexAddr := rfl
@[simp] theorem State.skipIf_getV (s : State) (c : Bool) (r : Nibble) : (s.skipIf c).getV r = s.getV r := rfl
@[simp] theorem State.skipIf_peek (s : State) (c : Bool) (q : Nat) : (s.skipIf c).peek q = s.peek q := rfl
@[simp] theorem State.skipIf_key (s : State) (c : Bool) (q : Nat) : (s.skipIf c).key q = s.key q := rfl
@[simp] theorem State.skipIf_lowestKey (s : State) (c : Bool) : (s.skipIf c).lowestKey = s.lowestKey := rfl
@[simp] theorem State.skipIf_indexAddr (s : State) (c : Bool) : (s.skipIf c).indexAddr = s.indexAddr := rfl
@[simp] theorem State.setDt_getV (s : State) (b : Byte) (r : Nibble) : (s.setDt b).getV r = s.getV r := rfl
@[simp] theorem State.setDt_peek (s : State) (b : Byte) (q : Nat) : (s.setDt b).peek q = s.peek q := rfl
@[simp] theorem State.setDt_key (s : State) (b : Byte) (q : Nat) : (s.setDt b).key q = s.key q := rfl
@[simp] theorem State.setDt_lowestKey (s : State) (b : Byte) : (s.setDt b).lowestKey = s.lowestKey := rfl
@[simp] theorem State.setDt_indexAddr (s : State) (b : Byte) : (s.setDt b).indexAddr = s.indexAddr := rfl
@[simp] theorem State.setSt_getV (s : State) (b : Byte) (r : Nibble) : (s.setSt b).getV r = s.getV r := rfl
@[simp] theorem State.setSt_peek (s : State) (b : Byte) (q : Nat) : (s.setSt b).peek q = s.peek q := rfl
@[simp] theorem State.setSt_key (s : State) (b : Byte) (q : Nat) : (s.setSt b).key q = s.key q := rfl
@[simp] theorem State.setSt_lowestKey (s : State) (b : Byte) : (s.setSt b).lowestKey = s.lowestKey := rfl
@[simp] theorem State.setSt_indexAddr (s : State) (b : Byte) : (s.setSt b).indexAddr = s.indexAddr := rfl
@[simp] theorem State.setFb_getV (s : State) (d : Display) (r : Nibble) : (s.setFb d).getV r = s.getV r := rfl
@[simp] theorem State.setFb_peek (s : State) (d : Display) (q : Nat) : (s.setFb d).peek q = s.peek q := rfl
@[simp] theorem State.setFb_key (s : State) (d : Display) (q : Nat) : (s.setFb d).key q = s.key q := rfl
@[simp] theorem State.setFb_lowestKey (s : State) (d : Display) : (s.setFb d).lowestKey = s.lowestKey := rfl
@[simp] theorem State.setFb_indexAddr (s : State) (d : Display) : (s.setFb d).indexAddr = s.indexAddr := rfl
@[simp] theorem State.poke_getV (s : State) (a : Nat) (b : Byte) (r : Nibble) : (s.poke a b).getV r = s.getV r := rfl
@[simp] theorem State.poke_key (s : State) (a : Nat) (b : Byte) (q : Nat) : (s.poke a b).key q = s.key q := rfl
@[simp] theorem State.poke_lowestKey (s : State) (a : Nat) (b : Byte) : (s.poke a b).lowestKey = s.lowestKey := rfl
@[simp] theorem State.poke_indexAddr (s : State) (a : Nat) (b : Byte) : (s.poke a b).indexAddr = s.indexAddr := rfl
@[simp] theorem State.nextRand_getV (s : State) (r : Nibble) : (s.nextRand).getV r = s.getV r := rfl
@[simp] theorem State.nextRand_peek (s : State) (q : Nat) : (s.nextRand).peek q = s.peek q := rfl
@[simp] theorem State.nextRand_key (s : State) (q : Nat) : (s.nextRand).key q = s.key q := rfl
@[simp] theorem State.nextRand_lowestKey (s : State) : (s.nextRand).lowestKey = s.lowestKey := rfl
@[simp] theorem State.nextRand_indexAddr (s : State) : (s.nextRand).indexAddr = s.indexAddr := rfl
@[simp] theorem State.pushed_getV (s : State) (a : Addr) (r : Nibble) : (s.pushed a).getV r = s.getV r := rfl
@[simp] theorem State.pushed_peek (s : State) (a : Addr) (q : Nat) : (s.pushed a).peek q = s.peek q := rfl
@[simp] theorem State.pushed_key (s : State) (a : Addr) (q : Nat) : (s.pushed a).key q = s.key q := rfl
@[simp] theorem State.pushed_lowestKey (s : State) (a : Addr) : (s.pushed a).lowestKey = s.lowestKey := rfl
@[simp] theorem State.pushed_indexAddr (s : State) (a : Addr) : (s.pushed a).indexAddr = s.indexAddr := rfl
@[simp] theorem State.popTo_getV (s : State) (a : Addr) (rest : List Addr) (r : Nibble) : (s.popTo a rest).getV r = s.getV r := rfl
@[simp] theorem State.popTo_peek (s : State) (a : Addr) (rest : List Addr) (q : Nat) : (s.popTo a rest).peek q = s.peek q := rfl
@[simp] theorem State.popTo_key (s : State) (a : Addr) (rest : List Addr) (q : Nat) : (s.popTo a rest).key q = s.key q := rfl
@[simp] theorem State.popTo_lowestKey (s : State) (a : Addr) (rest : List Addr) : (s.popTo a rest).lowestKey = s.lowestKey := rfl
@[simp] theorem State.popTo_indexAddr (s : State) (a : Addr) (rest : List Addr) : (s.popTo a rest).indexAddr = s.indexAddr := rfl
@[simp] theorem State.advance_getV (s : State) (r : Nibble) : (s.advance).getV r = s.getV r := rfl
@[simp] theorem State.advance_peek (s : State) (q : Nat) : (s.advance).peek q = s.peek q := rfl
@[simp] theorem State.advance_key (s : State) (q : Nat) : (s.advance).key q = s.key q := rfl
@[simp] theorem State.advance_lowestKey (s : State) : (s.advance).lowestKey = s.lowestKey := rfl
@[simp] theorem State.advance_indexAddr (s : State) : (s.advance).indexAddr = s.indexAddr := rfl
@[simp] theorem State.diagEmptyStackReturn_getV (s : State) (r : Nibble) : (s.diagEmptyStackReturn).getV r = s.getV r := rfl
@[simp] theorem State.diagEmptyStackReturn_peek (s : State) (q : Nat) : (s.diagEmptyStackReturn).peek q = s.peek q := rfl
@[simp] theorem State.diagEmptyStackReturn_key (s : State) (q : Nat) : (s.diagEmptyStackReturn).key q = s.key q := rfl
@[simp] theorem State.diagEmptyStackReturn_lowestKey (s : State) : (s.diagEmptyStackReturn).lowestKey = s.lowestKey := rfl
@[simp] theorem State.diagEmptyStackReturn_indexAddr (s : State) : (s.diagEmptyStackReturn).indexAddr = s.indexAddr := rfl
@[simp] theorem State.takeFault_getV (s : State) (kind : Fault) (op : OpWord) (r : Nibble) : (s.takeFault kind op).getV r = s.getV r := rfl
@[simp] theorem State.takeFault_peek (s : State) (kind : Fault) (op : OpWord) (q : Nat) : (s.takeFault kind op).peek q = s.peek q := rfl
@[simp] theorem State.takeFault_key (s : State) (kind : Fault) (op : OpWord) (q : Nat) : (s.takeFault kind op).key q = s.key q := rfl
@[simp] theorem State.takeFault_lowestKey (s : State) (kind : Fault) (op : OpWord) : (s.takeFault kind op).lowestKey = s.lowestKey := rfl
@[simp] theorem State.takeFault_indexAddr (s : State) (kind : Fault) (op : OpWord) : (s.takeFault kind op).indexAddr = s.indexAddr := rfl
@[simp] theorem State.takeFetchFault_getV (s : State) (kind : Fault) (r : Nibble) : (s.takeFetchFault kind).getV r = s.getV r := rfl
@[simp] theorem State.takeFetchFault_peek (s : State) (kind : Fault) (q : Nat) : (s.takeFetchFault kind).peek q = s.peek q := rfl
@[simp] theorem State.takeFetchFault_key (s : State) (kind : Fault) (q : Nat) : (s.takeFetchFault kind).key q = s.key q := rfl
@[simp] theorem State.takeFetchFault_lowestKey (s : State) (kind : Fault) : (s.takeFetchFault kind).lowestKey = s.lowestKey := rfl
@[simp] theorem State.takeFetchFault_indexAddr (s : State) (kind : Fault) : (s.takeFetchFault kind).indexAddr = s.indexAddr := rfl
@[simp] theorem State.repeatFault_getV (s : State) (kind : Fault) (r : Nibble) : (s.repeatFault kind).getV r = s.getV r := rfl
@[simp] theorem State.repeatFault_peek (s : State) (kind : Fault) (q : Nat) : (s.repeatFault kind).peek q = s.peek q := rfl
@[simp] theorem State.repeatFault_key (s : State) (kind : Fault) (q : Nat) : (s.repeatFault kind).key q = s.key q := rfl
@[simp] theorem State.repeatFault_lowestKey (s : State) (kind : Fault) : (s.repeatFault kind).lowestKey = s.lowestKey := rfl
@[simp] theorem State.repeatFault_indexAddr (s : State) (kind : Fault) : (s.repeatFault kind).indexAddr = s.indexAddr := rfl
@[simp] theorem State.refuseStep_getV (s : State) (r : Nibble) : (s.refuseStep).getV r = s.getV r := rfl
@[simp] theorem State.refuseStep_peek (s : State) (q : Nat) : (s.refuseStep).peek q = s.peek q := rfl
@[simp] theorem State.refuseStep_key (s : State) (q : Nat) : (s.refuseStep).key q = s.key q := rfl
@[simp] theorem State.refuseStep_lowestKey (s : State) : (s.refuseStep).lowestKey = s.lowestKey := rfl
@[simp] theorem State.refuseStep_indexAddr (s : State) : (s.refuseStep).indexAddr = s.indexAddr := rfl
@[simp] theorem State.setFlag_peek (s : State) (f : Bool) (q : Nat) : (s.setFlag f).peek q = s.peek q := rfl
@[simp] theorem State.setFlag_key (s : State) (f : Bool) (q : Nat) : (s.setFlag f).key q = s.key q := rfl
@[simp] theorem State.setFlag_lowestKey (s : State) (f : Bool) : (s.setFlag f).lowestKey = s.lowestKey := rfl
@[simp] theorem State.setFlag_indexAddr (s : State) (f : Bool) : (s.setFlag f).indexAddr = s.indexAddr := rfl
@[simp] theorem State.softReset_peek (s : State) (q : Nat) : (s.softReset).peek q = s.peek q := rfl
@[simp] theorem State.setKeys_getV (s : State) (k : BitVec 16) (r : Nibble) : (s.setKeys k).getV r = s.getV r := rfl
@[simp] theorem State.setKeys_peek (s : State) (k : BitVec 16) (q : Nat) : (s.setKeys k).peek q = s.peek q := rfl
@[simp] theorem State.setKeys_indexAddr (s : State) (k : BitVec 16) : (s.setKeys k).indexAddr = s.indexAddr := rfl

end Sys2Proof.Machine
end

