-- ==== Sys2Proof/Laws/Display.lean ====
section
/-! SUPPORT. What the drawing loop of spec/40_display.md R71 leaves on each pixel, and when it reports a collision. -/

namespace Sys2Proof.Machine

@[simp] theorem Display.pixel_blank (y x : Nat) : Display.blank.pixel y x = false := by
  unfold Display.pixel Display.blank
  split <;> simp

/-- Two displays with the same pixels are the same display. -/
theorem Display.ext_pixel {d e : Display} (h : ∀ y < 32, ∀ x < 64, d.pixel y x = e.pixel y x) : d = e := by
  apply Vector.ext
  intro y hy
  apply Vector.ext
  intro x hx
  have := h y hy x hx
  simpa [Display.pixel, hy, hx] using this

/-- Toggling a cell of the grid flips its pixel and no other. -/
theorem Display.pixel_toggle (d : Display) {y x : Nat} (hy : y < 32) (hx : x < 64) (q p : Nat) :
    (d.toggle y x).pixel q p = if q = y ∧ p = x then !d.pixel y x else d.pixel q p := by
  unfold Display.toggle
  rw [dif_pos hy]
  by_cases hr : q < 32 ∧ p < 64
  · simp only [Display.pixel, hr, hy, hx, and_self, dif_pos, Vector.getElem_set]
    by_cases hq : y = q
    · subst hq
      by_cases hp : x = p
      · subst hp; simp
      · have hp' : ¬ p = x := fun e => hp e.symm
        simp [hp, hp']
    · have hq' : ¬ q = y := fun e => hq e.symm
      simp [hq, hq']
  · have : ¬ (q = y ∧ p = x) := by rintro ⟨rfl, rfl⟩; exact hr ⟨hy, hx⟩
    simp [Display.pixel, hr, this]

/-- One column of a sprite row. -/
theorem plotBit_spec (row : Byte) (x0 y c : Nat) (hy : y < 32) (d : Display) (hit : Bool) :
    (∀ q p, (plotBit row x0 y (d, hit) c).1.pixel q p =
      (d.pixel q p ^^ (decide (q = y ∧ p = x0 + c ∧ p < 64) && row.getLsbD (7 - c)))) ∧
    (plotBit row x0 y (d, hit) c).2 =
      (hit || (decide (x0 + c < 64) && row.getLsbD (7 - c) && d.pixel y (x0 + c))) := by
  unfold plotBit
  by_cases hx : x0 + c > 63
  · rw [if_pos hx]
    refine ⟨fun q p => ?_, ?_⟩
    · have : ¬ (q = y ∧ p = x0 + c ∧ p < 64) := by omega
      simp [this]
    · have : ¬ x0 + c < 64 := by omega
      simp [this]
  · rw [if_neg hx]
    have hx : x0 + c < 64 := by omega
    by_cases hb : row.getLsbD (7 - c)
    · rw [if_pos hb]
      refine ⟨fun q p => ?_, by simp [hx, hb]⟩
      rw [Display.pixel_toggle d hy hx]
      by_cases hqp : q = y ∧ p = x0 + c
      · obtain ⟨rfl, rfl⟩ := hqp
        simp [hx, hb]
      · have : ¬ (q = y ∧ p = x0 + c ∧ p < 64) := fun h => hqp ⟨h.1, h.2.1⟩
        simp [hqp, this]
    · rw [if_neg hb]
      simp [hb]

/-- The first `n` columns of a sprite row. -/
theorem plotBits_spec (row : Byte) (x0 y : Nat) (hy : y < 32) (d : Display) (hit : Bool) (n : Nat) :
    (∀ q p, ((List.range n).foldl (plotBit row x0 y) (d, hit)).1.pixel q p =
      (d.pixel q p ^^ (decide (q = y ∧ x0 ≤ p ∧ p < x0 + n ∧ p < 64) && row.getLsbD (7 - (p - x0))))) ∧
    (((List.range n).foldl (plotBit row x0 y) (d, hit)).2 = true ↔
      hit = true ∨ ∃ p, x0 ≤ p ∧ p < x0 + n ∧ p < 64 ∧ row.getLsbD (7 - (p - x0)) = true ∧ d.pixel y p = true) := by
  induction n with
  | zero =>
    refine ⟨fun q p => ?_, ?_⟩
    · rw [decide_eq_false (by omega)]
      simp
    · simp only [List.range_zero, List.foldl_nil]
      refine ⟨.inl, ?_⟩
      rintro (h | ⟨p, h1, h2, _⟩)
      · exact h
      · omega
  | succ n ih =>
    rw [List.range_succ, List.foldl_append, List.foldl_cons, List.foldl_nil]
    generalize (List.range n).foldl (plotBit row x0 y) (d, hit) = e at ih
    obtain ⟨e1, e2⟩ := e
    obtain ⟨ih1, ih2⟩ := ih
    obtain ⟨h1, h2⟩ := plotBit_spec row x0 y n hy e1 e2
    simp only at ih1 ih2
    refine ⟨fun q p => ?_, ?_⟩
    · rw [h1, ih1, Bool.xor_assoc]
      congr 1
      by_cases hp : p = x0 + n
      · subst hp
        simp
      · rw [decide_eq_false (by omega : ¬ (q = y ∧ p = x0 + n ∧ p < 64)),
          show decide (q = y ∧ x0 ≤ p ∧ p < x0 + (n + 1) ∧ p < 64) = decide (q = y ∧ x0 ≤ p ∧ p < x0 + n ∧ p < 64)
            from decide_eq_decide.mpr (by omega)]
        simp
    · rw [h2]
      have hp : e1.pixel y (x0 + n) = d.pixel y (x0 + n) := by
        rw [ih1]
        simp
      simp only [Bool.or_eq_true, Bool.and_eq_true, decide_eq_true_eq, ih2, hp]
      constructor
      · rintro ((h | ⟨p, a, b, c⟩) | ⟨⟨a, b⟩, c⟩)
        · exact .inl h
        · exact .inr ⟨p, a, by omega, c⟩
        · exact .inr ⟨x0 + n, by omega, by omega, a, by simpa using b, c⟩
      · rintro (h | ⟨p, a, b, c, e, f⟩)
        · exact .inl (.inl h)
        · by_cases hpn : p = x0 + n
          · subst hpn; exact .inr ⟨⟨c, by simpa using e⟩, f⟩
          · exact .inl (.inr ⟨p, a, by omega, c, e, f⟩)

/-- One sprite row, clipped at row 31. -/
theorem plotRow_spec (row : Byte) (x0 y : Nat) (d : Display) (hit : Bool) :
    (∀ q p, (plotRow row x0 y (d, hit)).1.pixel q p =
      (d.pixel q p ^^ (decide (q = y ∧ q < 32 ∧ x0 ≤ p ∧ p < x0 + 8 ∧ p < 64) && row.getLsbD (7 - (p - x0))))) ∧
    ((plotRow row x0 y (d, hit)).2 = true ↔
      hit = true ∨ ∃ p, y < 32 ∧ x0 ≤ p ∧ p < x0 + 8 ∧ p < 64 ∧ row.getLsbD (7 - (p - x0)) = true ∧
        d.pixel y p = true) := by
  unfold plotRow
  by_cases hy : y > 31
  · rw [if_pos hy]
    refine ⟨fun q p => ?_, ?_⟩
    · have : ¬ (q = y ∧ q < 32 ∧ x0 ≤ p ∧ p < x0 + 8 ∧ p < 64) := by omega
      simp [this]
    · refine ⟨.inl, ?_⟩
      rintro (h | ⟨p, h1, _⟩)
      · exact h
      · omega
  · rw [if_neg hy]
    have hy : y < 32 := by omega
    obtain ⟨h1, h2⟩ := plotBits_spec row x0 y hy d hit 8
    refine ⟨fun q p => ?_, ?_⟩
    · rw [h1]
      have : (q = y ∧ q < 32 ∧ x0 ≤ p ∧ p < x0 + 8 ∧ p < 64) ↔ (q = y ∧ x0 ≤ p ∧ p < x0 + 8 ∧ p < 64) := by omega
      simp [this]
    · rw [h2]
      simp [hy]

/-- The whole sprite: each cell of the grid is XORed with its sprite bit, and a collision is reported when a sprite
bit falls on a pixel that was on. -/
theorem plotSprite_spec (x0 y0 : Nat) (rows : List Byte) (d : Display) (hit : Bool) :
    (∀ q p, (plotSprite x0 y0 rows (d, hit)).1.pixel q p =
      (d.pixel q p ^^ (decide (y0 ≤ q ∧ q < y0 + rows.length ∧ q < 32 ∧ x0 ≤ p ∧ p < x0 + 8 ∧ p < 64) &&
        (rows.getD (q - y0) 0).getLsbD (7 - (p - x0))))) ∧
    ((plotSprite x0 y0 rows (d, hit)).2 = true ↔
      hit = true ∨ ∃ q p, y0 ≤ q ∧ q < y0 + rows.length ∧ q < 32 ∧ x0 ≤ p ∧ p < x0 + 8 ∧ p < 64 ∧
        (rows.getD (q - y0) 0).getLsbD (7 - (p - x0)) = true ∧ d.pixel q p = true) := by
  induction rows generalizing y0 d hit with
  | nil =>
    refine ⟨fun q p => ?_, ?_⟩
    · have : ¬ (y0 ≤ q ∧ q < y0 + ([] : List Byte).length ∧ q < 32 ∧ x0 ≤ p ∧ p < x0 + 8 ∧ p < 64) := by
        simp only [List.length_nil]; omega
      simp [plotSprite]
    · simp only [plotSprite, List.length_nil]
      refine ⟨.inl, ?_⟩
      rintro (h | ⟨q, p, h1, h2, _⟩)
      · exact h
      · omega
  | cons row rows ih =>
    rw [plotSprite]
    obtain ⟨r1, r2⟩ := plotRow_spec row x0 y0 d hit
    generalize plotRow row x0 y0 (d, hit) = e at r1 r2
    obtain ⟨e1, e2⟩ := e
    simp only at r1 r2
    obtain ⟨i1, i2⟩ := ih (y0 + 1) e1 e2
    refine ⟨fun q p => ?_, ?_⟩
    · rw [i1, r1, Bool.xor_assoc]
      congr 1
      rcases Nat.lt_trichotomy q y0 with h | rfl | h
      · have a : ¬ y0 ≤ q := by omega
        have b : ¬ y0 + 1 ≤ q := by omega
        have c : ¬ q = y0 := by omega
        simp [a, b, c]
      · have b : ¬ q + 1 ≤ q := by omega
        simp [b]
      · obtain ⟨k, rfl⟩ : ∃ k, q = y0 + 1 + k := ⟨q - y0 - 1, by omega⟩
        have a : y0 ≤ y0 + 1 + k := by omega
        have c : ¬ y0 + 1 + k = y0 := by omega
        rw [show y0 + 1 + k - y0 = k + 1 by omega, show y0 + 1 + k - (y0 + 1) = k by omega]
        have e : (y0 + 1 + k < y0 + 1 + rows.length) ↔ (y0 + 1 + k < y0 + (row :: rows).length) := by
          simp only [List.length_cons]; omega
        simp [a, c, e]
    · rw [i2, r2]
      have hne : ∀ q p, y0 + 1 ≤ q → e1.pixel q p = d.pixel q p := by
        intro q p hq
        rw [r1]
        have : ¬ (q = y0 ∧ q < 32 ∧ x0 ≤ p ∧ p < x0 + 8 ∧ p < 64) := by omega
        simp [this]
      constructor
      · rintro ((h | ⟨p, a, b, c, e, f, g⟩) | ⟨q, p, a, b, c, e, f, g, h, k⟩)
        · exact .inl h
        · refine .inr ⟨y0, p, by omega, by simp only [List.length_cons]; omega, a, b, c, e, by simpa using f, g⟩
        · refine .inr ⟨q, p, by omega, by simp only [List.length_cons]; omega, c, e, f, g, ?_, ?_⟩
          · rw [show q - y0 = (q - (y0 + 1)) + 1 by omega]; simpa using h
          · rw [← hne q p a]; exact k
      · rintro (h | ⟨q, p, a, b, c, e, f, g, h, k⟩)
        · exact .inl (.inl h)
        · simp only [List.length_cons] at b
          by_cases hq : q = y0
          · subst hq
            exact .inl (.inr ⟨p, c, e, f, g, by simpa using h, k⟩)
          · refine .inr ⟨q, p, by omega, by omega, c, e, f, g, ?_, ?_⟩
            · rw [show q - y0 = (q - (y0 + 1)) + 1 by omega] at h; simpa using h
            · rw [hne q p (by omega)]; exact k

end Sys2Proof.Machine
end

