-- ==== Sys2Proof/Laws/Memory.lean ====
section
/-! SUPPORT. The laws of M as data: a read after a write, a write elsewhere, and that every memory operation keeps the
canonical form (spec/10_state.md R19; spec/20_memory.md R39, R40). -/

namespace Sys2Proof.Machine

/-! ### Erase and insert -/

theorem Memory.read_erase_self (font : Vector Byte 80) (m : Memory) (a : Nat) :
    (m.erase a).read font a = resetImage font a := by
  induction m with
  | nil => rfl
  | cons c m ih =>
    obtain ⟨k, b⟩ := c
    by_cases h : k = a
    · simpa [Memory.erase, h] using ih
    · simpa [Memory.erase, Memory.read, h] using ih

theorem Memory.read_erase_of_ne (font : Vector Byte 80) (m : Memory) {a q : Nat} (h : q ≠ a) :
    (m.erase a).read font q = m.read font q := by
  induction m with
  | nil => rfl
  | cons c m ih =>
    obtain ⟨k, b⟩ := c
    by_cases hk : k = a
    · have : ¬ k = q := fun e => h (e ▸ hk)
      simp [Memory.erase, Memory.read, hk, ih, h.symm]
    · simp [Memory.erase, Memory.read, hk, ih]

theorem Memory.read_insert_of_ne (font : Vector Byte 80) (m : Memory) {a q : Nat} (v : Byte) (h : q ≠ a) :
    (m.insert a v).read font q = m.read font q := by
  induction m with
  | nil => simp [Memory.insert, Memory.read, h.symm]
  | cons c m ih =>
    obtain ⟨k, b⟩ := c
    by_cases hk : a < k
    · simp [Memory.insert, Memory.read, hk, h.symm]
    · simp [Memory.insert, Memory.read, hk, ih]

/-- No cell stands at `a`. -/
def Memory.lacks (m : Memory) (a : Nat) : Prop := ∀ c ∈ m, c.1 ≠ a

theorem Memory.erase_lacks (m : Memory) (a : Nat) : (m.erase a).lacks a := by
  induction m with
  | nil => simp [Memory.erase, Memory.lacks]
  | cons c m ih =>
    obtain ⟨k, b⟩ := c
    by_cases h : k = a
    · simpa [Memory.erase, h] using ih
    · intro c hc
      simp only [Memory.erase, h, if_false, List.mem_cons] at hc
      rcases hc with rfl | hc
      · exact h
      · exact ih c hc

theorem Memory.read_insert_self (font : Vector Byte 80) (m : Memory) (a : Nat) (v : Byte) (h : m.lacks a) :
    (m.insert a v).read font a = v := by
  induction m with
  | nil => simp [Memory.insert, Memory.read]
  | cons c m ih =>
    obtain ⟨k, b⟩ := c
    have hk : k ≠ a := h (k, b) (by simp)
    have ih := ih (fun c hc => h c (by simp [hc]))
    by_cases hlt : a < k
    · simp [Memory.insert, Memory.read, hlt]
    · simp [Memory.insert, Memory.read, hlt, hk, ih]

/-! ### Write -/

/-- A read after a write to the same address gives the byte written. -/
@[simp] theorem Memory.read_write_self (font : Vector Byte 80) (m : Memory) (a : Nat) (v : Byte) :
    (m.write font a v).read font a = v := by
  by_cases h : v = resetImage font a
  · simp [Memory.write, h, Memory.read_erase_self]
  · simp [Memory.write, h, Memory.read_insert_self _ _ _ _ (Memory.erase_lacks m a)]

/-- A write leaves every other address alone. -/
theorem Memory.read_write_of_ne (font : Vector Byte 80) (m : Memory) {a q : Nat} (v : Byte) (h : q ≠ a) :
    (m.write font a v).read font q = m.read font q := by
  by_cases hv : v = resetImage font a
  · simp [Memory.write, hv, Memory.read_erase_of_ne _ _ h]
  · simp [Memory.write, hv, Memory.read_insert_of_ne _ _ _ h, Memory.read_erase_of_ne _ _ h]

/-! ### The canonical form -/

theorem Memory.wfFrom_cons {font : Vector Byte 80} {lo k : Nat} {b : Byte} {m : Memory} :
    Memory.wfFrom font lo ((k, b) :: m) = true ↔
      lo ≤ k ∧ k < memSize ∧ b ≠ resetImage font k ∧ Memory.wfFrom font (k + 1) m = true := by
  simp [Memory.wfFrom, and_assoc]

theorem Memory.wfFrom_mono {font : Vector Byte 80} {lo lo' : Nat} {m : Memory} (hle : lo' ≤ lo)
    (h : m.wfFrom font lo = true) : m.wfFrom font lo' = true := by
  cases m with
  | nil => rfl
  | cons c m =>
    obtain ⟨k, b⟩ := c
    rw [Memory.wfFrom_cons] at h ⊢
    exact ⟨by omega, h.2⟩

theorem Memory.wfFrom_erase {font : Vector Byte 80} {m : Memory} {lo : Nat} (a : Nat)
    (h : m.wfFrom font lo = true) : (m.erase a).wfFrom font lo = true := by
  induction m generalizing lo with
  | nil => rfl
  | cons c m ih =>
    obtain ⟨k, b⟩ := c
    rw [Memory.wfFrom_cons] at h
    obtain ⟨h1, h2, h3, h4⟩ := h
    by_cases hk : k = a
    · simp only [Memory.erase, hk, if_true]
      exact ih (Memory.wfFrom_mono (by omega) h4)
    · simp only [Memory.erase, hk, if_false]
      exact Memory.wfFrom_cons.mpr ⟨h1, h2, h3, ih h4⟩

theorem Memory.wfFrom_insert {font : Vector Byte 80} {m : Memory} {lo a : Nat} {v : Byte}
    (h : m.wfFrom font lo = true) (hl : m.lacks a) (hlo : lo ≤ a) (ha : a < memSize) (hv : v ≠ resetImage font a) :
    (m.insert a v).wfFrom font lo = true := by
  induction m generalizing lo with
  | nil => simp [Memory.insert, Memory.wfFrom, hlo, ha, hv]
  | cons c m ih =>
    obtain ⟨k, b⟩ := c
    rw [Memory.wfFrom_cons] at h
    obtain ⟨h1, h2, h3, h4⟩ := h
    have hk : k ≠ a := hl (k, b) (by simp)
    by_cases hlt : a < k
    · simp only [Memory.insert, hlt, if_true]
      exact Memory.wfFrom_cons.mpr ⟨hlo, ha, hv, Memory.wfFrom_cons.mpr ⟨by omega, h2, h3, h4⟩⟩
    · simp only [Memory.insert, hlt, if_false]
      exact Memory.wfFrom_cons.mpr ⟨h1, h2, h3, ih h4 (fun c hc => hl c (by simp [hc])) (by omega)⟩

/-- A write to an address of M keeps the canonical form. -/
theorem Memory.wf_write {font : Vector Byte 80} {m : Memory} {a : Nat} (v : Byte) (h : m.wf font = true)
    (ha : a < memSize) : (m.write font a v).wf font = true := by
  by_cases hv : v = resetImage font a
  · simpa [Memory.write, hv, Memory.wf] using Memory.wfFrom_erase a h
  · simpa [Memory.write, hv, Memory.wf] using
      Memory.wfFrom_insert (Memory.wfFrom_erase a h) (Memory.erase_lacks m a) (Nat.zero_le a) ha hv

/-- A loaded ROM that fits is in canonical form (R202). -/
theorem romCells_wfFrom (font : Vector Byte 80) (rom : List Byte) (a : Nat) (h : a + rom.length ≤ memSize) :
    Memory.wfFrom font a (romCells font a rom) = true := by
  induction rom generalizing a with
  | nil => rfl
  | cons b bs ih =>
    simp only [List.length_cons] at h
    have ih := ih (a + 1) (by omega)
    by_cases hb : b = resetImage font a
    · simpa [romCells, hb] using Memory.wfFrom_mono (Nat.le_succ a) ih
    · simp only [romCells, hb, if_false]
      exact Memory.wfFrom_cons.mpr ⟨Nat.le_refl a, by omega, hb, ih⟩

/-- What a loaded ROM reads as: its bytes from `a` up, the reset image elsewhere (R202). -/
theorem romCells_read (font : Vector Byte 80) (rom : List Byte) (a q : Nat) :
    (romCells font a rom).read font q =
      if a ≤ q then rom.getD (q - a) (resetImage font q) else resetImage font q := by
  induction rom generalizing a with
  | nil => simp [romCells, Memory.read]
  | cons b bs ih =>
    by_cases hb : b = resetImage font a
    · simp only [romCells, hb, if_true, ih]
      rcases Nat.lt_trichotomy q a with h | rfl | h
      · rw [if_neg (by omega), if_neg (by omega)]
      · simp
      · obtain ⟨d, rfl⟩ : ∃ d, q = a + 1 + d := ⟨q - a - 1, by omega⟩
        rw [if_pos (by omega), if_pos (by omega), show a + 1 + d - a = d + 1 by omega]
        simp
    · simp only [romCells, hb, if_false, Memory.read, ih]
      rcases Nat.lt_trichotomy q a with h | rfl | h
      · rw [if_neg (by omega), if_neg (by omega), if_neg (by omega)]
      · simp
      · obtain ⟨d, rfl⟩ : ∃ d, q = a + 1 + d := ⟨q - a - 1, by omega⟩
        rw [if_neg (by omega), if_pos (by omega), if_pos (by omega), show a + 1 + d - a = d + 1 by omega]
        simp

end Sys2Proof.Machine
end

