-- ==== Sys2Proof/Laws/Ops.lean ====
section
/-! SUPPORT. One lemma for each shared operation that says once everything it can do; proofs cite these and do not
unfold the operations. -/

namespace Sys2Proof.Machine

/-! ### Bytes of memory -/

theorem State.peek_poke (s : State) (a q : Nat) (b : Byte) :
    (s.poke a b).peek q = if q = a then b else s.peek q := by
  by_cases h : q = a
  · simp [State.peek, h]
  · simp [State.peek, h, Memory.read_write_of_ne _ _ _ h]

/-- A single write answers a state exactly when its address is in M (R34). -/
theorem State.memWrite_eq_ok {s t : State} {a : Nat} {b : Byte} :
    s.memWrite a b = .ok t ↔ a ≤ 0xFFF ∧ t = s.poke a b := by
  unfold State.memWrite
  split
  · simp; omega
  · simp only [Except.ok.injEq]
    exact ⟨fun h => ⟨by omega, h.symm⟩, fun h => h.2.symm⟩

/-- Reads from `a` up that stay in M answer the bytes in order (R33, R38). -/
theorem State.readBytes_ok (s : State) (n a : Nat) (h : ∀ k < n, a + k ≤ 0xFFF) :
    s.readBytes a n = .ok ((List.range n).map fun k => s.peek (a + k)) := by
  induction n generalizing a with
  | zero => rfl
  | succ n ih =>
    have h0 : ¬ a > 0xFFF := by have := h 0 (by omega); omega
    have ih := ih (a + 1) (fun k hk => by have := h (k + 1) (by omega); omega)
    simp only [State.readBytes, State.memRead, h0, if_false, ih, List.range_succ_eq_map, List.map_cons,
      List.map_map, Nat.add_zero]
    congr 2
    apply List.map_congr_left
    intro k _
    simp only [Function.comp]
    congr 1
    omega

/-- Reads from `a` up that leave M raise AddressOutOfRange (R33). -/
theorem State.readBytes_error (s : State) (n a : Nat) (h : ∃ k < n, a + k > 0xFFF) :
    s.readBytes a n = .error .addressOutOfRange := by
  induction n generalizing a with
  | zero => obtain ⟨k, hk, _⟩ := h; omega
  | succ n ih =>
    by_cases h0 : a > 0xFFF
    · simp [State.readBytes, State.memRead, h0]
    · obtain ⟨k, hk, ha⟩ := h
      have ih := ih (a + 1) ⟨k - 1, by omega, by omega⟩
      simp [State.readBytes, State.memRead, h0, ih]

/-- Writing bytes from `a` up. -/
def State.pokes (s : State) (a : Nat) : List Byte → State
  | [] => s
  | b :: bs => (s.poke a b).pokes (a + 1) bs

/-- Writes from `a` up that stay in M answer the state with every byte written (R34, R38). -/
theorem State.writeBytes_ok (s : State) (a : Nat) (bs : List Byte) (h : ∀ k < bs.length, a + k ≤ 0xFFF) :
    s.writeBytes a bs = .ok (s.pokes a bs) := by
  induction bs generalizing s a with
  | nil => rfl
  | cons b bs ih =>
    have h0 : ¬ a > 0xFFF := by have := h 0 (by simp); omega
    simp only [State.writeBytes, State.memWrite, h0, if_false, State.pokes]
    exact ih _ _ (fun k hk => by have := h (k + 1) (by simpa using hk); omega)

/-- Writes from `a` up that leave M raise AddressOutOfRange (R34). -/
theorem State.writeBytes_error (s : State) (a : Nat) (bs : List Byte) (h : ∃ k < bs.length, a + k > 0xFFF) :
    s.writeBytes a bs = .error .addressOutOfRange := by
  induction bs generalizing s a with
  | nil => obtain ⟨k, hk, _⟩ := h; simp at hk
  | cons b bs ih =>
    by_cases h0 : a > 0xFFF
    · simp [State.writeBytes, State.memWrite, h0]
    · obtain ⟨k, hk, ha⟩ := h
      simp only [List.length_cons] at hk
      simp only [State.writeBytes, State.memWrite, h0, if_false]
      exact ih _ _ ⟨k - 1, by omega, by omega⟩

/-- Writing bytes changes M only. -/
theorem State.pokes_eq (s : State) (a : Nat) (bs : List Byte) : s.pokes a bs = { s with mem := (s.pokes a bs).mem } := by
  induction bs generalizing s a with
  | nil => rfl
  | cons b bs ih => rw [State.pokes, ih]; rfl

/-- What an address reads as after bytes are written from `a` up. -/
theorem State.peek_pokes (s : State) (a q : Nat) (bs : List Byte) :
    (s.pokes a bs).peek q = if a ≤ q then bs.getD (q - a) (s.peek q) else s.peek q := by
  induction bs generalizing s a with
  | nil => simp [State.pokes]
  | cons b bs ih =>
    rw [State.pokes, ih, State.peek_poke]
    rcases Nat.lt_trichotomy q a with h | rfl | h
    · rw [if_neg (by omega), if_neg (by omega), if_neg (by omega)]
    · simp
    · obtain ⟨d, rfl⟩ : ∃ d, q = a + 1 + d := ⟨q - a - 1, by omega⟩
      rw [if_pos (by omega), if_neg (by omega), if_pos (by omega), show a + 1 + d - a = d + 1 by omega]
      simp

/-- Writing bytes inside M keeps the canonical form. -/
theorem State.pokes_wf (s : State) (a : Nat) (bs : List Byte) (h : ∀ k < bs.length, a + k ≤ 0xFFF)
    (hw : s.mem.wf s.cfg.font = true) : (s.pokes a bs).mem.wf s.cfg.font = true := by
  induction bs generalizing s a with
  | nil => exact hw
  | cons b bs ih =>
    refine ih (s.poke a b) (a + 1) (fun k hk => by have := h (k + 1) (by simpa using hk); omega) ?_
    exact Memory.wf_write b hw (by have := h 0 (by simp); simp only [memSize]; omega)

/-- The fetch answers the word at pc, or raises when its second byte is outside M (R35). -/
theorem State.fetch_ok {s : State} (h : s.pc.toNat ≤ 0xFFE) :
    s.fetch = .ok (s.peek s.pc.toNat ++ s.peek (s.pc.toNat + 1)) := by
  simp [State.fetch, wordOfBytes, Nat.not_lt.mpr h]

theorem State.fetch_error {s : State} (h : s.pc.toNat > 0xFFE) : s.fetch = .error .addressOutOfRange := by
  simp [State.fetch, h]

/-! ### Registers from a list of bytes (R135) -/

/-- Receiving registers changes V only. -/
theorem State.setVsFrom_eq (s : State) (k : Nat) (bs : List Byte) :
    s.setVsFrom k bs = { s with v := (s.setVsFrom k bs).v } := by
  induction bs generalizing s k with
  | nil => rfl
  | cons b bs ih => rw [State.setVsFrom, ih]

/-- What a register holds after the bytes are received from V[k] up. -/
theorem State.getV_setVsFrom (s : State) (k : Nat) (bs : List Byte) (r : Nibble) :
    (s.setVsFrom k bs).getV r = if k ≤ r.toNat then bs.getD (r.toNat - k) (s.getV r) else s.getV r := by
  induction bs generalizing s k with
  | nil => simp [State.setVsFrom]
  | cons b bs ih =>
    rw [State.setVsFrom, ih]
    rcases Nat.lt_trichotomy r.toNat k with h | h | h
    · rw [if_neg (by omega), if_neg (by omega)]
      simp only [State.getV, Vector.getElem_setIfInBounds]
      rw [if_neg (by omega)]
    · subst h
      have hr : r.toNat < 16 := r.isLt
      simp [State.getV]
    · obtain ⟨d, hd⟩ : ∃ d, r.toNat = k + 1 + d := ⟨r.toNat - k - 1, by omega⟩
      rw [if_pos (by omega), if_pos (by omega), show r.toNat - (k + 1) = d by omega,
        show r.toNat - k = d + 1 by omega]
      have : ({ s with v := s.v.setIfInBounds k b } : State).getV r = s.getV r := by
        simp only [State.getV, Vector.getElem_setIfInBounds]
        rw [if_neg (by omega)]
      simp [this]

/-- The bytes FX55 stores: byte k is V[k] (R134). -/
theorem State.regsUpTo_length (s : State) (x : Nibble) : (s.regsUpTo x).length = x.toNat + 1 := by
  have := x.isLt
  simp [State.regsUpTo]
  omega

theorem State.regsUpTo_getD (s : State) (x r : Nibble) (d : Byte) :
    (s.regsUpTo x).getD r.toNat d = if r.toNat ≤ x.toNat then s.getV r else d := by
  have hr : r.toNat < 16 := r.isLt
  by_cases h : r.toNat ≤ x.toNat
  · simp [State.regsUpTo, List.getD_eq_getElem?_getD, h, State.getV, hr]
  · have h' : ¬ r.toNat < x.toNat + 1 := by omega
    simp [State.regsUpTo, List.getD_eq_getElem?_getD, h, h']

/-! ### Stack (R14) -/

theorem State.push_eq_ok {s t : State} {a : Addr} :
    s.push a = .ok t ↔ s.stack.length < s.cfg.stackDepth ∧ t = s.pushed a := by
  unfold State.push
  split
  · simp; omega
  · simp only [Except.ok.injEq]
    exact ⟨fun h => ⟨by omega, h.symm⟩, fun h => h.2.symm⟩

/-! ### The commit-or-discard of a step (R51, R55) -/

/-- An instruction's execution ends in exactly one of two ways, both a next state: its effects commit, or they raise
and the fault is entered on the state before the step. -/
theorem execute_cases (ins : Instr) (s : State) (effects : State → Except Fault State) :
    (∃ t, effects s.advance = .ok t ∧ execute ins s effects = .next t) ∨
    (∃ kind, effects s.advance = .error kind ∧ execute ins s effects = .next (s.takeFault kind (encode ins))) := by
  unfold execute
  cases h : effects s.advance with
  | ok t => exact .inl ⟨t, rfl, rfl⟩
  | error kind => exact .inr ⟨kind, rfl, rfl⟩

theorem execute_of_ok {ins : Instr} {s t : State} {effects : State → Except Fault State}
    (h : effects s.advance = .ok t) : execute ins s effects = .next t := by
  simp [execute, h]

theorem execute_of_error {ins : Instr} {s : State} {kind : Fault} {effects : State → Except Fault State}
    (h : effects s.advance = .error kind) : execute ins s effects = .next (s.takeFault kind (encode ins)) := by
  simp [execute, h]

end Sys2Proof.Machine
end

