-- ==== Sys2Proof/Laws/Exec.lean ====
section
/-! SUPPORT. What each instruction's meaning answers, once: an equation for every instruction that cannot raise, one for
each way of one that can, and from them one inversion lemma for `exec` and one for `step`. -/

namespace Sys2Proof.Machine

/-! ### Instructions that cannot raise -/

@[simp] theorem exec_cls (s : State) : exec .cls s = .next (s.advance.setFb Display.blank) := rfl
@[simp] theorem exec_jp (nnn : BitVec 12) (s : State) :
    exec (.jp nnn) s = .next (s.advance.setPc (addrOfNNN nnn)) := rfl
@[simp] theorem exec_seImm (x : Nibble) (nn : Byte) (s : State) :
    exec (.seImm x nn) s = .next (s.advance.skipIf (s.getV x == nn)) := rfl
@[simp] theorem exec_sneImm (x : Nibble) (nn : Byte) (s : State) :
    exec (.sneImm x nn) s = .next (s.advance.skipIf (s.getV x != nn)) := rfl
@[simp] theorem exec_seReg (x y : Nibble) (s : State) :
    exec (.seReg x y) s = .next (s.advance.skipIf (s.getV x == s.getV y)) := rfl
@[simp] theorem exec_sneReg (x y : Nibble) (s : State) :
    exec (.sneReg x y) s = .next (s.advance.skipIf (s.getV x != s.getV y)) := rfl
@[simp] theorem exec_jpV0 (nnn : BitVec 12) (s : State) :
    exec (.jpV0 nnn) s = .next (s.advance.setPc (jumpOffset nnn (s.getV v0))) := rfl
@[simp] theorem exec_ldImm (x : Nibble) (nn : Byte) (s : State) :
    exec (.ldImm x nn) s = .next (s.advance.setV x nn) := rfl
@[simp] theorem exec_addImm (x : Nibble) (nn : Byte) (s : State) :
    exec (.addImm x nn) s = .next (s.advance.setV x (s.getV x + nn)) := rfl
@[simp] theorem exec_ldReg (x y : Nibble) (s : State) :
    exec (.ldReg x y) s = .next (s.advance.setV x (s.getV y)) := rfl
@[simp] theorem exec_orReg (x y : Nibble) (s : State) :
    exec (.orReg x y) s = .next (s.advance.setV x (s.getV x ||| s.getV y)) := rfl
@[simp] theorem exec_andReg (x y : Nibble) (s : State) :
    exec (.andReg x y) s = .next (s.advance.setV x (s.getV x &&& s.getV y)) := rfl
@[simp] theorem exec_xorReg (x y : Nibble) (s : State) :
    exec (.xorReg x y) s = .next (s.advance.setV x (s.getV x ^^^ s.getV y)) := rfl

/-- The state the flag line of 8XY4-8XYE leaves (R9). -/
def State.flagged (s : State) (f : Bool) : State := s.advance.setFlag f

@[simp] theorem exec_addReg (x y : Nibble) (s : State) :
    exec (.addReg x y) s =
      let t := s.flagged (Flags.carry (s.getV x) (s.getV y))
      .next (t.setV x (t.getV x + t.getV y)) := rfl
@[simp] theorem exec_sub (x y : Nibble) (s : State) :
    exec (.sub x y) s =
      let t := s.flagged (Flags.noBorrow (s.getV x) (s.getV y))
      .next (t.setV x (t.getV x - t.getV y)) := rfl
@[simp] theorem exec_shr (x y : Nibble) (s : State) :
    exec (.shr x y) s =
      let t := s.flagged (Flags.shiftedOutLow (s.getV x))
      .next (t.setV x (t.getV x >>> 1)) := rfl
@[simp] theorem exec_subn (x y : Nibble) (s : State) :
    exec (.subn x y) s =
      let t := s.flagged (Flags.noBorrow (s.getV y) (s.getV x))
      .next (t.setV x (t.getV y - t.getV x)) := rfl
@[simp] theorem exec_shl (x y : Nibble) (s : State) :
    exec (.shl x y) s =
      let t := s.flagged (Flags.shiftedOutHigh (s.getV x))
      .next (t.setV x (t.getV x <<< 1)) := rfl
@[simp] theorem exec_rnd (x : Nibble) (nn : Byte) (s : State) :
    exec (.rnd x nn) s = .next (s.advance.setV x (s.randIn &&& nn)).nextRand := rfl
@[simp] theorem exec_ldI (nnn : BitVec 12) (s : State) :
    exec (.ldI nnn) s = .next (s.advance.setI (addrOfNNN nnn)) := rfl
@[simp] theorem exec_addI (x : Nibble) (s : State) :
    exec (.addI x) s =
      let t := s.flagged (Flags.indexOverflow s.i (s.getV x))
      .next (t.setI (addIndex s.i (t.getV x))) := rfl
@[simp] theorem exec_ldF (x : Nibble) (s : State) :
    exec (.ldF x) s = .next (s.advance.setI (glyphAddr (s.getV x))) := rfl
@[simp] theorem exec_ldVxDt (x : Nibble) (s : State) : exec (.ldVxDt x) s = .next (s.advance.setV x s.dt) := rfl
@[simp] theorem exec_ldDtVx (x : Nibble) (s : State) : exec (.ldDtVx x) s = .next (s.advance.setDt (s.getV x)) := rfl
@[simp] theorem exec_ldStVx (x : Nibble) (s : State) : exec (.ldStVx x) s = .next (s.advance.setSt (s.getV x)) := rfl

/-! ### RET and LD VX, K: two ways, neither raises -/

theorem exec_ret_nil {s : State} (h : s.stack = []) : exec .ret s = .next s.advance.diagEmptyStackReturn := by
  rw [exec, execRet]
  exact execute_of_ok (by simp [h])

theorem exec_ret_cons {s : State} {a : Addr} {rest : List Addr} (h : s.stack = a :: rest) :
    exec .ret s = .next (s.advance.popTo a rest) := by
  rw [exec, execRet]
  exact execute_of_ok (by simp [h])

theorem exec_ldVxK_some {s : State} {k : Nat} (x : Nibble) (h : s.lowestKey = some k) :
    exec (.ldVxK x) s = .next (s.advance.setV x (BitVec.ofNat 8 k)) := by
  rw [exec, execLdVxK]
  exact execute_of_ok (by simp [h])

theorem exec_ldVxK_none {s : State} (x : Nibble) (h : s.lowestKey = none) :
    exec (.ldVxK x) s = .next (s.advance.setPc (s.pc + 2 - 2)) := by
  rw [exec, execLdVxK]
  exact execute_of_ok (by simp [h])

/-! ### Instructions that can raise: the way that completes and the way that faults -/

theorem exec_call_ok {s : State} (nnn : BitVec 12) (h : s.stack.length < s.cfg.stackDepth) :
    exec (.call nnn) s = .next ((s.advance.pushed (s.pc + 2)).setPc (addrOfNNN nnn)) := by
  rw [exec, execCall]
  refine execute_of_ok ?_
  rw [State.push_eq_ok (s := s.advance).mpr ⟨h, rfl⟩]
  rfl

theorem exec_call_overflow {s : State} (nnn : BitVec 12) (h : s.cfg.stackDepth ≤ s.stack.length) :
    exec (.call nnn) s = .next (s.takeFault .stackOverflow (encode (.call nnn))) := by
  rw [exec, execCall]
  exact execute_of_error (by simp [State.push, h])

/-- The N bytes of the sprite at I (R71). -/
def State.spriteRows (s : State) (n : Nat) : List Byte := (List.range n).map fun k => s.peek (s.indexAddr + k)

/-- The display and the collision of a DXYN on this state. -/
def State.drawn (s : State) (x y n : Nibble) : Display × Bool :=
  plotSprite (originX (s.getV x)) (originY (s.getV y)) (s.spriteRows n.toNat) (s.fb, false)

theorem exec_drw_ok {s : State} (x y n : Nibble) (h : ∀ k < n.toNat, s.indexAddr + k ≤ 0xFFF) :
    exec (.drw x y n) s = .next ((s.advance.setFb (s.drawn x y n).1).setFlag (s.drawn x y n).2) := by
  rw [exec, execDrw]
  refine execute_of_ok ?_
  rw [State.readBytes_ok _ _ _ (by simpa using h)]
  rfl

theorem exec_drw_fault {s : State} (x y n : Nibble) (h : ∃ k < n.toNat, s.indexAddr + k > 0xFFF) :
    exec (.drw x y n) s = .next (s.takeFault .addressOutOfRange (encode (.drw x y n))) := by
  rw [exec, execDrw]
  refine execute_of_error ?_
  rw [State.readBytes_error _ _ _ (by simpa using h)]

theorem exec_ldB_ok {s : State} (x : Nibble) (h : s.indexAddr + 2 ≤ 0xFFF) :
    exec (.ldB x) s = .next (s.advance.pokes s.indexAddr (bcdDigits (s.getV x))) := by
  rw [exec, execLdB]
  refine execute_of_ok (State.writeBytes_ok _ _ _ ?_)
  intro k hk
  simp only [bcdDigits, List.length_cons, List.length_nil] at hk
  simp only [State.advance_indexAddr]
  omega

theorem exec_ldB_fault {s : State} (x : Nibble) (h : s.indexAddr + 2 > 0xFFF) :
    exec (.ldB x) s = .next (s.takeFault .addressOutOfRange (encode (.ldB x))) := by
  rw [exec, execLdB]
  exact execute_of_error (State.writeBytes_error _ _ _ ⟨2, by simp [bcdDigits], by simpa using h⟩)

theorem exec_storeRegs_ok {s : State} (x : Nibble) (h : s.indexAddr + x.toNat ≤ 0xFFF) :
    exec (.storeRegs x) s = .next (s.advance.pokes s.indexAddr (s.regsUpTo x)) := by
  rw [exec, execStoreRegs]
  refine execute_of_ok (State.writeBytes_ok _ _ _ ?_)
  intro k hk
  rw [State.regsUpTo_length] at hk
  simp only [State.advance_indexAddr]
  omega

theorem exec_storeRegs_fault {s : State} (x : Nibble) (h : s.indexAddr + x.toNat > 0xFFF) :
    exec (.storeRegs x) s = .next (s.takeFault .addressOutOfRange (encode (.storeRegs x))) := by
  rw [exec, execStoreRegs]
  refine execute_of_error (State.writeBytes_error _ _ _ ⟨x.toNat, ?_, by simpa using h⟩)
  rw [State.regsUpTo_length]
  omega

theorem exec_loadRegs_ok {s : State} (x : Nibble) (h : s.indexAddr + x.toNat ≤ 0xFFF) :
    exec (.loadRegs x) s = .next (s.advance.setVsFrom 0 (s.spriteRows (x.toNat + 1))) := by
  rw [exec, execLoadRegs]
  refine execute_of_ok ?_
  rw [State.readBytes_ok _ _ _ (by intro k hk; simp only [State.advance_indexAddr]; omega)]
  rfl

theorem exec_loadRegs_fault {s : State} (x : Nibble) (h : s.indexAddr + x.toNat > 0xFFF) :
    exec (.loadRegs x) s = .next (s.takeFault .addressOutOfRange (encode (.loadRegs x))) := by
  rw [exec, execLoadRegs]
  refine execute_of_error ?_
  rw [State.readBytes_error _ _ _ ⟨x.toNat, by omega, by simpa using h⟩]

theorem exec_skp_ok {s : State} (x : Nibble) (h : (s.getV x).toNat ≤ 15) :
    exec (.skp x) s = .next (s.advance.skipIf (s.key (s.getV x).toNat)) := by
  rw [exec, execSkp]
  exact execute_of_ok (by simp; omega)

theorem exec_skp_fault {s : State} (x : Nibble) (h : (s.getV x).toNat > 15) :
    exec (.skp x) s = .next (s.takeFault .keyIndexOutOfRange (encode (.skp x))) := by
  rw [exec, execSkp]
  exact execute_of_error (by simp; omega)

theorem exec_sknp_ok {s : State} (x : Nibble) (h : (s.getV x).toNat ≤ 15) :
    exec (.sknp x) s = .next (s.advance.skipIf (!s.key (s.getV x).toNat)) := by
  rw [exec, execSknp]
  exact execute_of_ok (by simp; omega)

theorem exec_sknp_fault {s : State} (x : Nibble) (h : (s.getV x).toNat > 15) :
    exec (.sknp x) s = .next (s.takeFault .keyIndexOutOfRange (encode (.sknp x))) := by
  rw [exec, execSknp]
  exact execute_of_error (by simp; omega)

/-! ### Inversion of STEP -/

/-- Everything a READY step can do: a fetch fault, an UnknownOpcode fault, or the decoded instruction's execution. -/
theorem step_ready_cases {s t : State} (hr : s.rs = .ready) (h : step s = .next t) :
    (s.pc.toNat > 0xFFE ∧ t = s.takeFetchFault .addressOutOfRange) ∨
    (s.pc.toNat ≤ 0xFFE ∧ decodeWord (s.peek s.pc.toNat ++ s.peek (s.pc.toNat + 1)) = none ∧
      t = s.takeFault .unknownOpcode (s.peek s.pc.toNat ++ s.peek (s.pc.toNat + 1))) ∨
    (s.pc.toNat ≤ 0xFFE ∧ ∃ i, decodeWord (s.peek s.pc.toNat ++ s.peek (s.pc.toNat + 1)) = some i ∧
      exec i s = .next t) := by
  simp only [step, hr] at h
  by_cases hpc : s.pc.toNat ≤ 0xFFE
  · rw [State.fetch_ok hpc] at h
    simp only at h
    split at h
    · rename_i hd
      exact .inr (.inl ⟨hpc, hd, by simpa using h.symm⟩)
    · rename_i i hd
      exact .inr (.inr ⟨hpc, i, hd, h⟩)
  · rw [State.fetch_error (by omega)] at h
    exact .inl ⟨by omega, by simpa using h.symm⟩

end Sys2Proof.Machine
end

