-- ==== Sys2Proof/Laws/PerInstr.lean ====
section
/-! SUPPORT. Per-instruction facts about syntax. Family EncodeInRow: the word of an instruction selects the
instruction's own row of spec/30_encoding.md R56. -/

namespace Sys2Proof.Laws

/-- The encoded word selects the row (`op AND mask = match`, R56). -/
def EncodeInRow.Statement (i : Instr) : Prop := i.row.selects (encode i) = true

theorem EncodeInRow.cls : EncodeInRow.Statement (.cls) := by
  simp [EncodeInRow.Statement, Instr.row, OpcodeRow.selects, encode]

theorem EncodeInRow.ret : EncodeInRow.Statement (.ret) := by
  simp [EncodeInRow.Statement, Instr.row, OpcodeRow.selects, encode]

theorem EncodeInRow.jp (nnn : BitVec 12) : EncodeInRow.Statement (.jp nnn) := by
  simp [EncodeInRow.Statement, Instr.row, OpcodeRow.selects, encode, and_F000]

theorem EncodeInRow.call (nnn : BitVec 12) : EncodeInRow.Statement (.call nnn) := by
  simp [EncodeInRow.Statement, Instr.row, OpcodeRow.selects, encode, and_F000]

theorem EncodeInRow.seImm (x : Nibble) (nn : Byte) : EncodeInRow.Statement (.seImm x nn) := by
  simp [EncodeInRow.Statement, Instr.row, OpcodeRow.selects, encode, and_F000]

theorem EncodeInRow.sneImm (x : Nibble) (nn : Byte) : EncodeInRow.Statement (.sneImm x nn) := by
  simp [EncodeInRow.Statement, Instr.row, OpcodeRow.selects, encode, and_F000]

theorem EncodeInRow.seReg (x y : Nibble) : EncodeInRow.Statement (.seReg x y) := by
  simp [EncodeInRow.Statement, Instr.row, OpcodeRow.selects, encode, and_F00F]

theorem EncodeInRow.ldImm (x : Nibble) (nn : Byte) : EncodeInRow.Statement (.ldImm x nn) := by
  simp [EncodeInRow.Statement, Instr.row, OpcodeRow.selects, encode, and_F000]

theorem EncodeInRow.addImm (x : Nibble) (nn : Byte) : EncodeInRow.Statement (.addImm x nn) := by
  simp [EncodeInRow.Statement, Instr.row, OpcodeRow.selects, encode, and_F000]

theorem EncodeInRow.ldReg (x y : Nibble) : EncodeInRow.Statement (.ldReg x y) := by
  simp [EncodeInRow.Statement, Instr.row, OpcodeRow.selects, encode, and_F00F]

theorem EncodeInRow.orReg (x y : Nibble) : EncodeInRow.Statement (.orReg x y) := by
  simp [EncodeInRow.Statement, Instr.row, OpcodeRow.selects, encode, and_F00F]

theorem EncodeInRow.andReg (x y : Nibble) : EncodeInRow.Statement (.andReg x y) := by
  simp [EncodeInRow.Statement, Instr.row, OpcodeRow.selects, encode, and_F00F]

theorem EncodeInRow.xorReg (x y : Nibble) : EncodeInRow.Statement (.xorReg x y) := by
  simp [EncodeInRow.Statement, Instr.row, OpcodeRow.selects, encode, and_F00F]

theorem EncodeInRow.addReg (x y : Nibble) : EncodeInRow.Statement (.addReg x y) := by
  simp [EncodeInRow.Statement, Instr.row, OpcodeRow.selects, encode, and_F00F]

theorem EncodeInRow.sub (x y : Nibble) : EncodeInRow.Statement (.sub x y) := by
  simp [EncodeInRow.Statement, Instr.row, OpcodeRow.selects, encode, and_F00F]

theorem EncodeInRow.shr (x y : Nibble) : EncodeInRow.Statement (.shr x y) := by
  simp [EncodeInRow.Statement, Instr.row, OpcodeRow.selects, encode, and_F00F]

theorem EncodeInRow.subn (x y : Nibble) : EncodeInRow.Statement (.subn x y) := by
  simp [EncodeInRow.Statement, Instr.row, OpcodeRow.selects, encode, and_F00F]

theorem EncodeInRow.shl (x y : Nibble) : EncodeInRow.Statement (.shl x y) := by
  simp [EncodeInRow.Statement, Instr.row, OpcodeRow.selects, encode, and_F00F]

theorem EncodeInRow.sneReg (x y : Nibble) : EncodeInRow.Statement (.sneReg x y) := by
  simp [EncodeInRow.Statement, Instr.row, OpcodeRow.selects, encode, and_F00F]

theorem EncodeInRow.ldI (nnn : BitVec 12) : EncodeInRow.Statement (.ldI nnn) := by
  simp [EncodeInRow.Statement, Instr.row, OpcodeRow.selects, encode, and_F000]

theorem EncodeInRow.jpV0 (nnn : BitVec 12) : EncodeInRow.Statement (.jpV0 nnn) := by
  simp [EncodeInRow.Statement, Instr.row, OpcodeRow.selects, encode, and_F000]

theorem EncodeInRow.rnd (x : Nibble) (nn : Byte) : EncodeInRow.Statement (.rnd x nn) := by
  simp [EncodeInRow.Statement, Instr.row, OpcodeRow.selects, encode, and_F000]

theorem EncodeInRow.drw (x y n : Nibble) : EncodeInRow.Statement (.drw x y n) := by
  simp [EncodeInRow.Statement, Instr.row, OpcodeRow.selects, encode, and_F000]

theorem EncodeInRow.skp (x : Nibble) : EncodeInRow.Statement (.skp x) := by
  simp [EncodeInRow.Statement, Instr.row, OpcodeRow.selects, encode, and_F0FF]

theorem EncodeInRow.sknp (x : Nibble) : EncodeInRow.Statement (.sknp x) := by
  simp [EncodeInRow.Statement, Instr.row, OpcodeRow.selects, encode, and_F0FF]

theorem EncodeInRow.ldVxDt (x : Nibble) : EncodeInRow.Statement (.ldVxDt x) := by
  simp [EncodeInRow.Statement, Instr.row, OpcodeRow.selects, encode, and_F0FF]

theorem EncodeInRow.ldVxK (x : Nibble) : EncodeInRow.Statement (.ldVxK x) := by
  simp [EncodeInRow.Statement, Instr.row, OpcodeRow.selects, encode, and_F0FF]

theorem EncodeInRow.ldDtVx (x : Nibble) : EncodeInRow.Statement (.ldDtVx x) := by
  simp [EncodeInRow.Statement, Instr.row, OpcodeRow.selects, encode, and_F0FF]

theorem EncodeInRow.ldStVx (x : Nibble) : EncodeInRow.Statement (.ldStVx x) := by
  simp [EncodeInRow.Statement, Instr.row, OpcodeRow.selects, encode, and_F0FF]

theorem EncodeInRow.addI (x : Nibble) : EncodeInRow.Statement (.addI x) := by
  simp [EncodeInRow.Statement, Instr.row, OpcodeRow.selects, encode, and_F0FF]

theorem EncodeInRow.ldF (x : Nibble) : EncodeInRow.Statement (.ldF x) := by
  simp [EncodeInRow.Statement, Instr.row, OpcodeRow.selects, encode, and_F0FF]

theorem EncodeInRow.ldB (x : Nibble) : EncodeInRow.Statement (.ldB x) := by
  simp [EncodeInRow.Statement, Instr.row, OpcodeRow.selects, encode, and_F0FF]

theorem EncodeInRow.storeRegs (x : Nibble) : EncodeInRow.Statement (.storeRegs x) := by
  simp [EncodeInRow.Statement, Instr.row, OpcodeRow.selects, encode, and_F0FF]

theorem EncodeInRow.loadRegs (x : Nibble) : EncodeInRow.Statement (.loadRegs x) := by
  simp [EncodeInRow.Statement, Instr.row, OpcodeRow.selects, encode, and_F0FF]

end Sys2Proof.Laws
end

