-- ==== Sys2Proof/Tests/Slice0.lean ====
section
/-! SUPPORT. Small tests: each check of WellFormed refuses an ill-formed term; words written out from the patterns of
spec/30_encoding.md R56 decode to their instruction; one step of each instruction on a small state, the expected values
from spec/95_test_vectors.md (its vector is named at each test); and, for every obligation that has hypotheses, a
concrete state and operands that meet them, clause by clause and at the ends of a range. -/

namespace Sys2Proof.Tests

open Sys2Proof Sys2Proof.Machine

/-! ### Helpers -/

/-- The state after an outcome meets a check; false where the outcome is not a next state. -/
def after (o : Host.Outcome State Fault Refusal) (check : State → Bool) : Bool :=
  match o with
  | .next t => check t
  | _ => false

/-- The default start of spec/95_test_vectors.md: right after reset, with a fixed byte on rand_in. -/
def start : State := { State.reset with randIn := 0xB7 }

/-- `start` with some registers set. -/
def regs (l : List (Nibble × Byte)) : State := l.foldl (fun s p => s.setV p.1 p.2) start

/-- `start` with the index register and some registers set. -/
def idx (i : Addr) (l : List (Nibble × Byte)) : State := (regs l).setI i

/-- The state `s` with a list of bytes of memory written. -/
def bytes (s : State) (l : List (Nat × Byte)) : State := l.foldl (fun s p => s.poke p.1 p.2) s

/-- The check that a step ended in a fault of this kind at this address, with this word. -/
def faultedAt (kind : Fault) (addr : Addr) (op : OpWord) (t : State) : Bool :=
  t.rs == .faulted ⟨kind, addr, op⟩ && t.stepResult == .fault kind && t.pc == addr

/-- A state that has taken a fault. -/
def faulted : State := { start with rs := .faulted ⟨.unknownOpcode, 0x200, 0x0123⟩ }

/-- A power-on state. -/
def poweredOn : State := { start with rs := .uninit }

/-- A ROM of n bytes 7. -/
def rom (n : Nat) : List Byte := List.replicate n 7

theorem rom_length {n : Nat} : (rom n).length = n := List.length_replicate

/-! ### WellFormed: each check refuses an ill-formed term -/

theorem test_wellFormedWord_refuses_group0 : wellFormedWord 0x0123 = false := by decide
theorem test_wellFormedWord_refuses_5XY1 : wellFormedWord 0x5121 = false := by decide
theorem test_wellFormedWord_refuses_8XY8 : wellFormedWord 0x8008 = false := by decide
theorem test_wellFormedWord_refuses_group_F : wellFormedWord 0xF000 = false := by decide
theorem test_wellFormedWord_takes_D125 : wellFormedWord 0xD125 = true := by decide
theorem test_row_refuses_bits_outside_mask : (OpcodeRow.mk "5XY1" .xys 0x5010 0xF00F).wellFormed = false := by decide
theorem test_row_refuses_mask_of_another_format : (OpcodeRow.mk "1NNN" .nnn 0x1000 0xF00F).wellFormed = false := by decide
theorem test_rows_are_wellFormed : opcodeRows.all OpcodeRow.wellFormed = true := by decide
theorem test_config_refuses_depth_0 : (Config.mk 0 Config.default.font).wellFormed = false := by decide
theorem test_romFits_refuses_3585_bytes : romFits (rom 3585) = false := by
  rw [romFits, rom_length]; decide
theorem test_romFits_takes_3584_bytes : romFits (rom 3584) = true := by
  rw [romFits, rom_length]; decide

/-! ### Decoding: words written out from R56 -/

theorem test_decode_cls : decodeWord 0b0000000011100000#16 = some .cls := by decide
theorem test_decode_ret : decodeWord 0b0000000011101110#16 = some .ret := by decide
theorem test_decode_jp : decodeWord 0b0001001000000100#16 = some (.jp 0x204) := by decide
theorem test_decode_call : decodeWord 0b0010001000010000#16 = some (.call 0x210) := by decide
theorem test_decode_seImm : decodeWord 0b0011000000000001#16 = some (.seImm 0 0x01) := by decide
theorem test_decode_sneImm : decodeWord 0b0100001100000110#16 = some (.sneImm 3 0x06) := by decide
theorem test_decode_seReg : decodeWord 0b0101000100100000#16 = some (.seReg 1 2) := by decide
theorem test_decode_ldImm : decodeWord 0b0110101010011100#16 = some (.ldImm 0xA 0x9C) := by decide
theorem test_decode_addImm : decodeWord 0b0111000000001010#16 = some (.addImm 0 0x0A) := by decide
theorem test_decode_ldReg : decodeWord 0b1000000100100000#16 = some (.ldReg 1 2) := by decide
theorem test_decode_orReg : decodeWord 0b1000000100100001#16 = some (.orReg 1 2) := by decide
theorem test_decode_andReg : decodeWord 0b1000000100100010#16 = some (.andReg 1 2) := by decide
theorem test_decode_xorReg : decodeWord 0b1000000100100011#16 = some (.xorReg 1 2) := by decide
theorem test_decode_addReg : decodeWord 0b1000000000010100#16 = some (.addReg 0 1) := by decide
theorem test_decode_sub : decodeWord 0b1000000000010101#16 = some (.sub 0 1) := by decide
theorem test_decode_shr : decodeWord 0b1000001011110110#16 = some (.shr 2 0xF) := by decide
theorem test_decode_subn : decodeWord 0b1000111100010111#16 = some (.subn 0xF 1) := by decide
theorem test_decode_shl : decodeWord 0b1000001000001110#16 = some (.shl 2 0) := by decide
theorem test_decode_sneReg : decodeWord 0b1001000100100000#16 = some (.sneReg 1 2) := by decide
theorem test_decode_ldI : decodeWord 0b1010001100000000#16 = some (.ldI 0x300) := by decide
theorem test_decode_jpV0 : decodeWord 0b1011111111111111#16 = some (.jpV0 0xFFF) := by decide
theorem test_decode_rnd : decodeWord 0b1100001100001111#16 = some (.rnd 3 0x0F) := by decide
theorem test_decode_drw : decodeWord 0b1101000100100101#16 = some (.drw 1 2 5) := by decide
theorem test_decode_skp : decodeWord 0b1110010110011110#16 = some (.skp 5) := by decide
theorem test_decode_sknp : decodeWord 0b1110010110100001#16 = some (.sknp 5) := by decide
theorem test_decode_ldVxDt : decodeWord 0b1111001100000111#16 = some (.ldVxDt 3) := by decide
theorem test_decode_ldVxK : decodeWord 0b1111001000001010#16 = some (.ldVxK 2) := by decide
theorem test_decode_ldDtVx : decodeWord 0b1111000100010101#16 = some (.ldDtVx 1) := by decide
theorem test_decode_ldStVx : decodeWord 0b1111000100011000#16 = some (.ldStVx 1) := by decide
theorem test_decode_addI : decodeWord 0b1111001100011110#16 = some (.addI 3) := by decide
theorem test_decode_ldF : decodeWord 0b1111000000101001#16 = some (.ldF 0) := by decide
theorem test_decode_ldB : decodeWord 0b1111101000110011#16 = some (.ldB 0xA) := by decide
theorem test_decode_storeRegs : decodeWord 0b1111001101010101#16 = some (.storeRegs 3) := by decide
theorem test_decode_loadRegs : decodeWord 0b1111001001100101#16 = some (.loadRegs 2) := by decide

theorem test_decode_refuses_5121 : decodeWord 0x5121 = none := by decide
theorem test_decode_refuses_9121 : decodeWord 0x9121 = none := by decide
theorem test_decode_refuses_8008 : decodeWord 0x8008 = none := by decide
theorem test_decode_refuses_0123 : decodeWord 0x0123 = none := by decide
theorem test_decode_refuses_E000 : decodeWord 0xE000 = none := by decide
theorem test_decode_refuses_FFFF : decodeWord 0xFFFF = none := by decide
theorem test_decode_bytes_big_endian : decode [0xD1, 0x25, 0x12] = .ok (.drw 1 2 5, [0x12]) := by decide
theorem test_decode_names_the_word : decode [0x51, 0x21] = .error (.unknownOpcode 0x5121) := by decide
theorem test_decode_one_byte : decode [0xD1] = .error .truncated := by decide
theorem test_decodeTableWord : decodeTableWord 16 0xD125 = some (.drw 1 2 5) := by decide
theorem test_asm_label : (Instr.jp 0x204).asm "" (fun _ => "loop") = "JP loop" := by decide
theorem test_asm_prefix : (Instr.drw 1 2 5).asm "0x" asmAddr = "DRW V1, V2, 0x5" := by decide
theorem test_step_runs_placed_word : after (step (start.withFetchWord 16 0x6A9C)) (fun t => t.getV 0xA == 0x9C) = true := by decide

/-! ### One step of each instruction (spec/95_test_vectors.md) -/

/-- D-1. -/
theorem test_cls :
    after (exec (.cls) { start with fb := start.fb.toggle 5 7 }) (fun t => !t.fb.pixel 5 7 && t.pc == 0x202) = true := by decide

/-- D-5. -/
theorem test_drw_collision :
    after (exec (.drw 0 0 1) (bytes { idx 0x300 [] with fb := start.fb.toggle 0 0 } [(0x300, 0x80)])) (fun t => !t.fb.pixel 0 0 && t.getV 0xF == 1) = true := by decide

/-- D-4. -/
theorem test_drw_wraps_origin_clips_none :
    after (exec (.drw 0 1 1) (bytes (idx 0x300 [(0, 0x46), (1, 0x21)]) [(0x300, 0x81)])) (fun t => t.fb.pixel 1 6 && t.fb.pixel 1 13 && !t.fb.pixel 1 7 && t.getV 0xF == 0) = true := by decide

/-- C-1. -/
theorem test_ret :
    after (exec (.ret) { start with pc := 0x212, stack := [0x206] }) (fun t => t.pc == 0x206 && t.stack == [] && t.stepResult == .ok) = true := by decide

/-- C-2. -/
theorem test_ret_empty :
    after (exec (.ret) { start with pc := 0x300 }) (fun t => t.pc == 0x302 && t.stepResult == .okEmptyStackReturn) = true := by decide

/-- C-3. -/
theorem test_jp :
    after (exec (.jp 0x204) { start with pc := 0x20A }) (fun t => t.pc == 0x204) = true := by decide

/-- C-5. -/
theorem test_call :
    after (exec (.call 0x210) { start with pc := 0x204 }) (fun t => t.pc == 0x210 && t.stack == [0x206]) = true := by decide

/-- C-6. -/
theorem test_call_full :
    after (exec (.call 0x300) { start with stack := List.replicate 16 0x202 }) (fun t => faultedAt .stackOverflow 0x200 0x2300 t && t.stack.length == 16) = true := by decide

/-- C-7. -/
theorem test_seImm_skips :
    after (exec (.seImm 0 0) start) (fun t => t.pc == 0x204) = true := by decide

/-- C-8. -/
theorem test_seImm_goes_on :
    after (exec (.seImm 0 1) start) (fun t => t.pc == 0x202) = true := by decide

/-- C-9. -/
theorem test_sneImm_skips :
    after (exec (.sneImm 3 6) { regs [(3, 5)] with pc := 0x300 }) (fun t => t.pc == 0x304) = true := by decide

/-- C-10. -/
theorem test_sneImm_goes_on :
    after (exec (.sneImm 3 5) { regs [(3, 5)] with pc := 0x300 }) (fun t => t.pc == 0x302) = true := by decide

/-- C-11. -/
theorem test_seReg :
    after (exec (.seReg 1 2) (regs [(1, 0x10), (2, 0x10)])) (fun t => t.pc == 0x204) = true := by decide

/-- C-13. -/
theorem test_sneReg_skips :
    after (exec (.sneReg 1 2) (regs [(1, 0x10), (2, 0x11)])) (fun t => t.pc == 0x204) = true := by decide

/-- C-14. -/
theorem test_sneReg_same_register :
    after (exec (.sneReg 1 1) (regs [(1, 0x10)])) (fun t => t.pc == 0x202) = true := by decide

/-- C-15. -/
theorem test_jpV0 :
    after (exec (.jpV0 0x300) (regs [(0, 4)])) (fun t => t.pc == 0x304) = true := by decide

/-- C-16. -/
theorem test_jpV0_not_truncated :
    after (exec (.jpV0 0xFFF) (regs [(0, 0xFF)])) (fun t => t.pc == 0x10FE) = true := by decide

/-- A-1. -/
theorem test_ldImm :
    after (exec (.ldImm 0xA 0x9C) start) (fun t => t.getV 0xA == 0x9C && t.pc == 0x202) = true := by decide

/-- L1-2. -/
theorem test_addImm_wraps_no_flag :
    after (exec (.addImm 0 0x0A) (regs [(0, 0xFA)])) (fun t => t.getV 0 == 4 && t.getV 0xF == 0) = true := by decide

/-- A-2. -/
theorem test_addImm_to_vf :
    after (exec (.addImm 0xF 0xFF) (regs [(0xF, 1)])) (fun t => t.getV 0xF == 0) = true := by decide

/-- A-3. -/
theorem test_ldReg :
    after (exec (.ldReg 1 2) (regs [(2, 0x33)])) (fun t => t.getV 1 == 0x33) = true := by decide

/-- A-4. -/
theorem test_orReg :
    after (exec (.orReg 1 2) (regs [(1, 0x0F), (2, 0xF0), (0xF, 0x55)])) (fun t => t.getV 1 == 0xFF && t.getV 0xF == 0x55) = true := by decide

/-- A-5. -/
theorem test_andReg :
    after (exec (.andReg 1 2) (regs [(1, 0x3C), (2, 0x0F)])) (fun t => t.getV 1 == 0x0C) = true := by decide

/-- A-6. -/
theorem test_xorReg :
    after (exec (.xorReg 1 2) (regs [(1, 0x3C), (2, 0x0F)])) (fun t => t.getV 1 == 0x33) = true := by decide

/-- A-8. -/
theorem test_addReg_sum_256 :
    after (exec (.addReg 0 1) (regs [(0, 0x80), (1, 0x80)])) (fun t => t.getV 0 == 0 && t.getV 0xF == 1) = true := by decide

/-- A-11. -/
theorem test_addReg_y_is_f :
    after (exec (.addReg 1 0xF) (regs [(1, 0xF0), (0xF, 0x20)])) (fun t => t.getV 1 == 0xF1 && t.getV 0xF == 1) = true := by decide

/-- A-15. -/
theorem test_sub_equal :
    after (exec (.sub 0 1) (regs [(0, 7), (1, 7)])) (fun t => t.getV 0 == 0 && t.getV 0xF == 0) = true := by decide

/-- A-16. -/
theorem test_sub_x_is_f :
    after (exec (.sub 0xF 1) (regs [(0xF, 0x30), (1, 0x10)])) (fun t => t.getV 0xF == 0xF1) = true := by decide

/-- A-22. -/
theorem test_shr_ignores_y :
    after (exec (.shr 2 0xF) (regs [(2, 2), (0xF, 0x77)])) (fun t => t.getV 2 == 1 && t.getV 0xF == 0) = true := by decide

/-- A-21. -/
theorem test_shr_vf :
    after (exec (.shr 0xF 0) (regs [(0xF, 0xFF)])) (fun t => t.getV 0xF == 0) = true := by decide

/-- A-23. -/
theorem test_subn :
    after (exec (.subn 0 1) (regs [(0, 0x0A), (1, 0x14)])) (fun t => t.getV 0 == 0x0A && t.getV 0xF == 1) = true := by decide

/-- A-27. -/
theorem test_subn_y_is_f :
    after (exec (.subn 1 0xF) (regs [(1, 0x10), (0xF, 0x30)])) (fun t => t.getV 1 == 0xF1 && t.getV 0xF == 1) = true := by decide

/-- A-28. -/
theorem test_shl :
    after (exec (.shl 2 0) (regs [(2, 0x81)])) (fun t => t.getV 2 == 2 && t.getV 0xF == 1) = true := by decide

/-- A-31. -/
theorem test_shl_vf :
    after (exec (.shl 0xF 0) (regs [(0xF, 0x80)])) (fun t => t.getV 0xF == 2) = true := by decide

/-- A-33. -/
theorem test_rnd :
    after (exec (.rnd 3 0x0F) start) (fun t => t.getV 3 == 7) = true := by decide

/-- M-1. -/
theorem test_ldI :
    after (exec (.ldI 0x300) start) (fun t => t.i == 0x300) = true := by decide

/-- M-2. -/
theorem test_addI_wraps :
    after (exec (.addI 0) (idx 0xFFF [(0, 1)])) (fun t => t.i == 0 && t.getV 0xF == 1) = true := by decide

/-- M-4. -/
theorem test_addI_vf :
    after (exec (.addI 0xF) (idx 0xFFF [(0xF, 0xFF)])) (fun t => t.i == 0 && t.getV 0xF == 1) = true := by decide

/-- M-7. -/
theorem test_ldF_no_mask :
    after (exec (.ldF 0) (regs [(0, 0xFF)])) (fun t => t.i == 0x4FB) = true := by decide

/-- M-10. -/
theorem test_ldB :
    after (exec (.ldB 0) (idx 0x300 [(0, 0x9C)])) (fun t => t.peek 0x300 == 1 && t.peek 0x301 == 5 && t.peek 0x302 == 6 && t.i == 0x300) = true := by decide

/-- M-11. -/
theorem test_ldB_past_end :
    after (exec (.ldB 0) (idx 0xFFE [(0, 1)])) (fun t => faultedAt .addressOutOfRange 0x200 0xF033 t && t.peek 0xFFE == 0) = true := by decide

/-- M-12. -/
theorem test_storeRegs_to_end :
    after (exec (.storeRegs 0xF) (idx 0xFF0 [(0, 0), (1, 0x11), (0xF, 0xFF)])) (fun t => t.peek 0xFF1 == 0x11 && t.peek 0xFFF == 0xFF && t.i == 0xFF0) = true := by decide

/-- M-13. -/
theorem test_storeRegs_past_end :
    after (exec (.storeRegs 0xF) (idx 0xFF1 [(0, 1)])) (fun t => faultedAt .addressOutOfRange 0x200 0xFF55 t && t.peek 0xFF1 == 0) = true := by decide

/-- M-15. -/
theorem test_loadRegs :
    after (exec (.loadRegs 2) (bytes (idx 0x300 [(3, 9)]) [(0x300, 1), (0x301, 5), (0x302, 6)])) (fun t => t.getV 0 == 1 && t.getV 1 == 5 && t.getV 2 == 6 && t.getV 3 == 9) = true := by decide

/-- M-14. -/
theorem test_loadRegs_font :
    after (exec (.loadRegs 0xF) (idx 0 [])) (fun t => t.getV 0 == 0xF0 && t.getV 5 == 0x20 && t.getV 0xF == 0xF0) = true := by decide

/-- K-1. -/
theorem test_skp :
    after (exec (.skp 5) { regs [(5, 0xA)] with pc := 0x220, keys := 0x400 }) (fun t => t.pc == 0x224) = true := by decide

/-- K-5. -/
theorem test_skp_bad_key :
    after (exec (.skp 5) (regs [(5, 0x10)])) (fun t => faultedAt .keyIndexOutOfRange 0x200 0xE59E t) = true := by decide

/-- K-3. -/
theorem test_sknp_released :
    after (exec (.sknp 5) { regs [(5, 0xA)] with pc := 0x220 }) (fun t => t.pc == 0x224) = true := by decide

/-- K-4. -/
theorem test_sknp_pressed :
    after (exec (.sknp 5) { regs [(5, 0xA)] with pc := 0x220, keys := 0x400 }) (fun t => t.pc == 0x222) = true := by decide

/-- K-9. -/
theorem test_ldVxDt :
    after (exec (.ldVxDt 3) { start with dt := 0x3C }) (fun t => t.getV 3 == 0x3C) = true := by decide

/-- K-6. -/
theorem test_ldVxK_waits :
    after (exec (.ldVxK 2) { start with pc := 0x210 }) (fun t => t.pc == 0x210 && t.getV 2 == 0) = true := by decide

/-- K-7. -/
theorem test_ldVxK_lowest :
    after (exec (.ldVxK 2) { start with pc := 0x210, keys := 0x280 }) (fun t => t.pc == 0x212 && t.getV 2 == 7) = true := by decide

/-- K-10. -/
theorem test_ldDtVx :
    after (exec (.ldDtVx 1) (regs [(1, 0x3C)])) (fun t => t.dt == 0x3C) = true := by decide

/-- K-11. -/
theorem test_ldStVx :
    after (exec (.ldStVx 1) (regs [(1, 5)])) (fun t => t.st == 5 && t.soundOn) = true := by decide

/-! ### The step and the host operations -/

/-- E-1. -/
theorem test_step_unknown :
    after (step (start.withFetchWord 16 0x0123)) (faultedAt .unknownOpcode 0x200 0x0123) = true := by decide

/-- E-5: the fetch at 0xFFE is legal. -/
theorem test_step_at_FFE :
    after (step (bytes { start with pc := 0xFFE } [(0xFFE, 0x12), (0xFFF, 0x00)])) (fun t => t.pc == 0x200) = true := by
  decide

/-- E-4: the fetch at 0xFFF raises. -/
theorem test_step_at_FFF :
    after (step { start with pc := 0xFFF }) (fun t => t.stepResult == .fault .addressOutOfRange && t.pc == 0xFFF) = true := by
  decide

/-- E-3. -/
theorem test_step_faulted : after (step faulted) (fun t => t.stepResult == .fault .unknownOpcode && t.pc == 0x200) = true := by
  decide

/-- T-4. -/
theorem test_step_uninit : after (step poweredOn) (fun t => t.stepResult == .refusedNotInitialized) = true := by decide

/-- T-3: the timers count down while FAULTED. -/
theorem test_tick_faulted : ({ faulted with dt := 5 } : State).tick.2.dt = 4 := by decide

/-- T-2. -/
theorem test_tick_stops_sound : ({ start with st := 1 } : State).tick.2.soundOn = false := by decide

/-- R-3: memory survives a SOFT_RESET. -/
theorem test_softReset :
    ((bytes (faulted.setV 0 5) [(0x300, 7)]).softReset.peek 0x300 = 7) ∧
    (faulted.setV 0 5).softReset.getV 0 = 0 := by decide

/-- L1-9 and R-2: FONT, then the ROM. -/
theorem test_hardReset :
    (start.hardReset [0x12, 0x34]).2.peek 0x201 = 0x34 ∧ (start.hardReset [0x12, 0x34]).2.peek 0x04F = 0x80 := by
  decide

/-! ### Witnesses: the hypotheses of the obligations are met -/

/-- The invariant holds of `start`. -/
theorem start_inv : start.Inv :=
  ⟨by decide, fun _ => by decide, fun _ => by decide, fun _ => by decide, fun _ a ha => by cases ha⟩

/-- A state that stands at the ends of the invariant's ranges: I at 0xFFF, pc at 0x10FE, a full stack. -/
def extreme : State := { start with i := 0xFFF, pc := 0x10FE, stack := List.replicate 16 0x1000 }

theorem extreme_inv : extreme.Inv :=
  ⟨by decide, fun _ => by decide, fun _ => by decide, fun _ => by decide, fun _ a ha => by rw [List.eq_of_mem_replicate (show a ∈ List.replicate 16 0x1000 from ha)]; decide⟩

theorem witness_DecodedWordEncodesBack : decodeWord 0xD125 = some (.drw 1 2 5) := by decide

theorem witness_DecodeAgreesWithOpcodeMap :
    Instr.sub 0 0 ∈ oneOfEachRow ∧ 0x83D5#16 &&& (Instr.sub 0 0).row.mask = (Instr.sub 0 0).row.bits ∧
    (∀ i ∈ oneOfEachRow, 0x5121#16 &&& i.row.mask ≠ i.row.bits) := by decide

theorem witness_OpcodeRowsDisjoint :
    (Instr.sub 0 0).row ∈ opcodeRows ∧ 0x83D5#16 &&& (Instr.sub 0 0).row.mask = (Instr.sub 0 0).row.bits := by decide

/-- A READY state that fetches 6A9C at the last address a fetch can use. -/
def lastFetch : State := bytes { start with pc := 0xFFE } [(0xFFE, 0x6A), (0xFFF, 0x9C)]

theorem witness_StepRunsDecodedInstruction :
    lastFetch.rs = .ready ∧ lastFetch.pc.toNat = 0xFFE ∧ decodeWord lastFetch.wordAtPc = some (.ldImm 0xA 0x9C) := by
  decide

theorem witness_FetchReadsTwoBytesOrFaults :
    lastFetch.pc.toNat ≤ 0xFFE ∧ ({ start with pc := 0xFFF } : State).rs = .ready ∧
    ({ start with pc := 0xFFF } : State).pc.toNat > 0xFFE := by decide

theorem witness_UnrecognisedWordsFault :
    (start.withFetchWord 16 0x5121).rs = .ready ∧ (start.withFetchWord 16 0x5121).pc.toNat ≤ 0xFFE ∧
    decodeWord (start.withFetchWord 16 0x5121).wordAtPc = none := by decide

/-- A step faults at the fetch, at the decoding and at the execution. -/
theorem witness_FaultingStepIsPrecise :
    (∃ t fr, step { start with pc := 0xFFF } = .next t ∧ t.rs = .faulted fr) ∧
    (∃ t fr, step start = .next t ∧ t.rs = .faulted fr ∧ start.pc.toNat ≤ 0xFFE) ∧
    (∃ t fr, step ((idx 0xFFE []).withFetchWord 16 0xF033) = .next t ∧ t.rs = .faulted fr) :=
  ⟨⟨_, _, rfl, rfl⟩, ⟨_, _, rfl, rfl, by decide⟩, ⟨_, _, rfl, rfl⟩⟩

theorem witness_InstructionFaultKinds :
    (∃ t fr, exec (.call 0x300) extreme = .next t ∧ t.rs = .faulted fr ∧ fr.kind = .stackOverflow) ∧
    (∃ t fr, exec (.sknp 5) (regs [(5, 0x10)]) = .next t ∧ t.rs = .faulted fr ∧ fr.kind = .keyIndexOutOfRange) ∧
    (∃ t fr, exec (.loadRegs 0xF) (idx 0xFF1 []) = .next t ∧ t.rs = .faulted fr ∧ fr.kind = .addressOutOfRange) :=
  ⟨⟨_, _, rfl, rfl, rfl⟩, ⟨_, _, rfl, rfl, rfl⟩, ⟨_, _, rfl, rfl, rfl⟩⟩

theorem witness_FaultedIsSticky :
    faulted.rs = .faulted ⟨.unknownOpcode, 0x200, 0x0123⟩ ∧
    (∃ t, faulted.apply .softReset = .next t ∧ t.rs ≠ faulted.rs) ∧
    (∃ t, faulted.apply (.hardReset []) = .next t ∧ t.rs ≠ faulted.rs) :=
  ⟨rfl, ⟨_, rfl, by decide⟩, ⟨_, rfl, by decide⟩⟩

theorem witness_UninitRefusesStepAndTick :
    poweredOn.rs = .uninit ∧ (∃ t, poweredOn.apply .softReset = .next t ∧ t.rs ≠ .uninit) ∧
    (rom 3584).length ≤ 3584 := ⟨rfl, ⟨_, rfl, by decide⟩, rom_length.le⟩

theorem witness_StepKeepsInvariant :
    (start.Inv ∧ ∃ t, step start = .next t) ∧ (extreme.Inv ∧ ∃ t, step extreme = .next t) :=
  ⟨⟨start_inv, _, rfl⟩, ⟨extreme_inv, _, rfl⟩⟩

theorem witness_HostRunKeepsInvariant : poweredOn.Inv ∧ start.Inv :=
  ⟨⟨start_inv.memory, fun h => (h rfl).elim, fun h => (h rfl).elim, fun h => (h rfl).elim, fun h => (h rfl).elim⟩, start_inv⟩

theorem witness_CanonicalMemoryIsItsBytes :
    Memory.wf Config.default.font [(0x300, 7), (0xFFF, 1)] = true ∧
    (Memory.write Config.default.font [(0xFFF, 1)] 0x300 7) = [(0x300, 7), (0xFFF, 1)] := by decide

theorem witness_WritersOfEachPart :
    (∃ t, exec (.jp 0x204) start = .next t) ∧ (∀ x, Instr.jp 0x204 ≠ .ldB x ∧ Instr.jp 0x204 ≠ .storeRegs x) ∧
    (∀ x y n, Instr.jp 0x204 ≠ .drw x y n) ∧ (∀ a, Instr.jp 0x204 ≠ .ldI a) ∧ (∀ a, Instr.jp 0x204 ≠ .call a) :=
  ⟨⟨_, rfl⟩, by simp, by simp, by simp, by simp⟩

theorem witness_WritersOfTheFlag :
    ∃ t, exec (.ldImm vF 1) start = .next t ∧ t.getV vF ≠ start.getV vF := ⟨_, rfl, by decide⟩

theorem witness_RunStateNeverReturnsToUninit :
    (∃ t, start.apply .tick = .next t) ∧ start.rs ≠ .uninit ∧ (rom 3584).length ≤ 3584 :=
  ⟨⟨_, rfl⟩, by decide, rom_length.le⟩

theorem witness_OnlyRndReadsRandomInput :
    (∀ x nn, Instr.cls ≠ .rnd x nn) ∧ ∃ t, exec .cls start = .next t := ⟨by simp, _, rfl⟩

theorem witness_NoInstructionReadsSoundTimer : ∃ t, exec (.ldVxDt 1) start = .next t := ⟨_, rfl⟩

/-- Bytes at the end of M, FF and 80, with I at the first. -/
def lastSprite : State := bytes (idx 0xFFE []) [(0xFFE, 0xFF), (0xFFF, 0x80)]

/-- `lastSprite` with the pixel (0, 0) on, so that a draw collides. -/
def litSprite : State := { lastSprite with fb := start.fb.toggle 0 0 }

theorem witness_DrawSprite :
    (∀ r < (2 : Nibble).toNat, lastSprite.i.toNat + r ≤ 0xFFF) ∧
    (∃ r < (3 : Nibble).toNat, lastSprite.i.toNat + r > 0xFFF) ∧
    (∀ r < (0 : Nibble).toNat, lastSprite.i.toNat + r ≤ 0xFFF) := by decide

theorem witness_DrawSprite_collision :
    (∃ q < 32, ∃ p < 64, litSprite.fb.pixel q p = true ∧ litSprite.spriteBit 0 1 2 q p = true) ∧
    (∀ q < 32, ∀ p < 64, start.fb.pixel q p = true → start.spriteBit 0 1 2 q p = false) := by
  refine ⟨⟨0, by decide, 0, by decide, by decide⟩, fun q _ p _ h => ?_⟩
  have : start.fb.pixel q p = false := by simp [start, State.reset, Display.pixel, Display.blank]
  simp [this] at h

theorem witness_DrawRegion :
    ∃ t, exec (.drw 0 1 2) lastSprite = .next t ∧ t.fb.pixel 0 7 ≠ lastSprite.fb.pixel 0 7 := ⟨_, rfl, by decide⟩

theorem witness_DrawTwiceRestores :
    (0 : Nibble) ≠ vF ∧ (1 : Nibble) ≠ vF ∧ (∀ r < (2 : Nibble).toNat, litSprite.i.toNat + r ≤ 0xFFF) ∧
    ∃ t, exec (.drw 0 1 2) litSprite = .next t := ⟨by decide, by decide, by decide, _, rfl⟩

theorem witness_ReturnPopsOrGoesOn : extreme.stack = 0x1000 :: List.replicate 15 0x1000 ∧ start.stack = [] := by decide

theorem witness_CallPushesReturnAddress :
    ({ start with stack := List.replicate 15 0x202 } : State).stack.length < start.cfg.stackDepth ∧
    extreme.stack.length = extreme.cfg.stackDepth := by decide

/-- The flag's two values and the four cases of X and Y of R106. -/
theorem witness_AddRegisters :
    (1 = if ((regs [(0, 0x80), (1, 0x80)]).getV 0).toNat + ((regs [(0, 0x80), (1, 0x80)]).getV 1).toNat > 255 then 1 else 0) ∧
    (0 = if ((regs [(0, 0xFF)]).getV 0).toNat + ((regs [(0, 0xFF)]).getV 1).toNat > 255 then 1 else 0) ∧
    (0 : Nibble) ≠ vF ∧ (0xF : Nibble) = vF := by decide

/-- The flag's two values, equal operands among the 0, and the cases of X and Y of R107 and R109. -/
theorem witness_SubtractRegisters :
    (1 = if ((regs [(0, 8), (1, 7)]).getV 0).toNat > ((regs [(0, 8), (1, 7)]).getV 1).toNat then 1 else 0) ∧
    (0 = if ((regs [(0, 7), (1, 7)]).getV 0).toNat > ((regs [(0, 7), (1, 7)]).getV 1).toNat then 1 else 0) ∧
    (0 : Nibble) ≠ vF ∧ (0xF : Nibble) = vF := by decide

theorem witness_SubtractReversed :
    (1 = if ((regs [(0, 7), (1, 8)]).getV 1).toNat > ((regs [(0, 7), (1, 8)]).getV 0).toNat then 1 else 0) ∧
    (0 = if ((regs [(0, 7), (1, 7)]).getV 1).toNat > ((regs [(0, 7), (1, 7)]).getV 0).toNat then 1 else 0) ∧
    (0 : Nibble) ≠ vF ∧ (0xF : Nibble) = vF := by decide

theorem witness_ShiftRight_ShiftLeft : (0xE : Nibble) ≠ vF ∧ (0xF : Nibble) = vF := by decide

theorem witness_AddToIndex :
    (1 = if (idx 0xFFF [(0, 1)]).i.toNat + ((idx 0xFFF [(0, 1)]).getV 0).toNat > 0xFFF then 1 else 0) ∧
    (0 = if (idx 0xFFE [(0, 1)]).i.toNat + ((idx 0xFFE [(0, 1)]).getV 0).toNat > 0xFFF then 1 else 0) ∧
    (0xE : Nibble) ≠ vF ∧ (0xF : Nibble) = vF := by decide

theorem witness_StoreDecimalDigits :
    (idx 0xFFD []).indexAddr + 2 ≤ 0xFFF ∧ (idx 0xFFE []).indexAddr + 2 > 0xFFF := by decide

theorem witness_StoreRegisters_LoadRegisters :
    (idx 0xFF0 []).indexAddr + (0xF : Nibble).toNat ≤ 0xFFF ∧ (idx 0xFF1 []).indexAddr + (0xF : Nibble).toNat > 0xFFF ∧
    (idx 0xFFF []).indexAddr + (0 : Nibble).toNat ≤ 0xFFF ∧
    (15 : Nibble).toNat ≤ (15 : Nibble).toNat ∧ ¬ (1 : Nibble).toNat ≤ (0 : Nibble).toNat := by decide

theorem witness_SkipsOnKey :
    ((regs [(5, 15)]).getV 5).toNat ≤ 15 ∧ ((regs [(5, 16)]).getV 5).toNat > 15 := by decide

theorem witness_WaitForKey :
    (({ start with keys := 0x8001 } : State).keys.getLsbD 0 = true ∧
      ∀ j < 0, ({ start with keys := 0x8001 } : State).keys.getLsbD j = false) ∧
    (({ start with keys := 0x8000 } : State).keys.getLsbD 15 = true ∧
      ∀ j < 15, ({ start with keys := 0x8000 } : State).keys.getLsbD j = false) ∧
    (∀ k < 16, start.keys.getLsbD k = false) := by decide

theorem witness_TickCountsDown :
    poweredOn.rs = .uninit ∧ start.rs ≠ .uninit ∧ faulted.rs ≠ .uninit ∧
    ({ start with dt := 1, st := 1 } : State).dt.toNat > 0 ∧ ({ start with dt := 1, st := 1 } : State).st.toNat > 0 ∧
    start.dt.toNat = 0 ∧ start.st.toNat = 0 := by decide

theorem witness_HardResetLoadsRom :
    (rom 3584).length ≤ 3584 ∧ 3583 < (rom 3584).length ∧ ([] : List Byte).length ≤ 3584 := by
  rw [rom_length]; decide

theorem witness_HardResetRejectsLongRom : (rom 3585).length > 3584 := by rw [rom_length]; decide

theorem witness_ResetsAreIdempotent :
    (∃ t, start.apply .tick = .next t) ∧ (∀ rom, HostOp.tick ≠ .hardReset rom) ∧ (∀ r, HostOp.tick ≠ .step r) :=
  ⟨⟨_, rfl⟩, by simp, by simp⟩

theorem witness_ResetIsEmptyHardReset : poweredOn.cfg = Config.default := rfl

/-- A READY and a FAULTED state meet the hypothesis, a step and a host operation answer, and the step of the first
ends FAULTED. -/
theorem witness_FaultRecordNamesPc :
    (∀ fr, start.rs = .faulted fr → fr.addr = start.pc) ∧ (∀ fr, faulted.rs = .faulted fr → fr.addr = faulted.pc) ∧
    (∃ t fr, step start = .next t ∧ t.rs = .faulted fr) ∧
    (∃ t fr, faulted.apply .tick = .next t ∧ t.rs = .faulted fr) :=
  ⟨(fun _ h => by cases h), (fun _ h => by cases h; rfl), ⟨_, _, rfl, rfl⟩, ⟨_, _, rfl, rfl⟩⟩

end Sys2Proof.Tests
end

section
/-! PROOF. What an instruction can do, said once: the frames of the two operations over byte lists, and `Completes` and
`Raises`, the inversion of `exec` from the equations of Laws/Exec.lean. The state obligations below (O15, O17 to O22,
spec/10_state.md) are derived from it. -/

namespace Sys2Proof.Machine

/-! ### What writing bytes and receiving registers leave unchanged -/

section
variable (s : State) (a k : Nat) (bs : List Byte)

@[simp] theorem State.pokes_v : (s.pokes a bs).v = s.v := by rw [s.pokes_eq]
@[simp] theorem State.pokes_i : (s.pokes a bs).i = s.i := by rw [s.pokes_eq]
@[simp] theorem State.pokes_pc : (s.pokes a bs).pc = s.pc := by rw [s.pokes_eq]
@[simp] theorem State.pokes_stack : (s.pokes a bs).stack = s.stack := by rw [s.pokes_eq]
@[simp] theorem State.pokes_dt : (s.pokes a bs).dt = s.dt := by rw [s.pokes_eq]
@[simp] theorem State.pokes_st : (s.pokes a bs).st = s.st := by rw [s.pokes_eq]
@[simp] theorem State.pokes_fb : (s.pokes a bs).fb = s.fb := by rw [s.pokes_eq]
@[simp] theorem State.pokes_keys : (s.pokes a bs).keys = s.keys := by rw [s.pokes_eq]
@[simp] theorem State.pokes_rs : (s.pokes a bs).rs = s.rs := by rw [s.pokes_eq]
@[simp] theorem State.pokes_stepResult : (s.pokes a bs).stepResult = s.stepResult := by rw [s.pokes_eq]
@[simp] theorem State.pokes_randIn : (s.pokes a bs).randIn = s.randIn := by rw [s.pokes_eq]
@[simp] theorem State.pokes_draws : (s.pokes a bs).draws = s.draws := by rw [s.pokes_eq]
@[simp] theorem State.pokes_cfg : (s.pokes a bs).cfg = s.cfg := by rw [s.pokes_eq]
@[simp] theorem State.pokes_getV (r : Nibble) : (s.pokes a bs).getV r = s.getV r := State.getV_congr (s.pokes_v a bs) r

@[simp] theorem State.setVsFrom_i : (s.setVsFrom k bs).i = s.i := by rw [s.setVsFrom_eq]
@[simp] theorem State.setVsFrom_pc : (s.setVsFrom k bs).pc = s.pc := by rw [s.setVsFrom_eq]
@[simp] theorem State.setVsFrom_stack : (s.setVsFrom k bs).stack = s.stack := by rw [s.setVsFrom_eq]
@[simp] theorem State.setVsFrom_dt : (s.setVsFrom k bs).dt = s.dt := by rw [s.setVsFrom_eq]
@[simp] theorem State.setVsFrom_st : (s.setVsFrom k bs).st = s.st := by rw [s.setVsFrom_eq]
@[simp] theorem State.setVsFrom_fb : (s.setVsFrom k bs).fb = s.fb := by rw [s.setVsFrom_eq]
@[simp] theorem State.setVsFrom_keys : (s.setVsFrom k bs).keys = s.keys := by rw [s.setVsFrom_eq]
@[simp] theorem State.setVsFrom_mem : (s.setVsFrom k bs).mem = s.mem := by rw [s.setVsFrom_eq]
@[simp] theorem State.setVsFrom_rs : (s.setVsFrom k bs).rs = s.rs := by rw [s.setVsFrom_eq]
@[simp] theorem State.setVsFrom_stepResult : (s.setVsFrom k bs).stepResult = s.stepResult := by rw [s.setVsFrom_eq]
@[simp] theorem State.setVsFrom_randIn : (s.setVsFrom k bs).randIn = s.randIn := by rw [s.setVsFrom_eq]
@[simp] theorem State.setVsFrom_draws : (s.setVsFrom k bs).draws = s.draws := by rw [s.setVsFrom_eq]
@[simp] theorem State.setVsFrom_cfg : (s.setVsFrom k bs).cfg = s.cfg := by rw [s.setVsFrom_eq]

end

/-! ### The two ways an instruction ends (R51, R55) -/

/-- `Completes s i t`: on `s` the instruction `i` raises nothing and its effects leave `t`. One constructor for each way
of each instruction, with the condition under which it is taken; `exec_iff` ties it to `exec`. -/
inductive Completes (s : State) : Instr → State → Prop
  | cls : Completes s .cls (s.advance.setFb Display.blank)
  | retEmpty (h : s.stack = []) : Completes s .ret s.advance.diagEmptyStackReturn
  | retPop {a : Addr} {rest : List Addr} (h : s.stack = a :: rest) : Completes s .ret (s.advance.popTo a rest)
  | jp (nnn : BitVec 12) : Completes s (.jp nnn) (s.advance.setPc (addrOfNNN nnn))
  | call (nnn : BitVec 12) (h : s.stack.length < s.cfg.stackDepth) :
      Completes s (.call nnn) ((s.advance.pushed (s.pc + 2)).setPc (addrOfNNN nnn))
  | seImm (x : Nibble) (nn : Byte) : Completes s (.seImm x nn) (s.advance.skipIf (s.getV x == nn))
  | sneImm (x : Nibble) (nn : Byte) : Completes s (.sneImm x nn) (s.advance.skipIf (s.getV x != nn))
  | seReg (x y : Nibble) : Completes s (.seReg x y) (s.advance.skipIf (s.getV x == s.getV y))
  | ldImm (x : Nibble) (nn : Byte) : Completes s (.ldImm x nn) (s.advance.setV x nn)
  | addImm (x : Nibble) (nn : Byte) : Completes s (.addImm x nn) (s.advance.setV x (s.getV x + nn))
  | ldReg (x y : Nibble) : Completes s (.ldReg x y) (s.advance.setV x (s.getV y))
  | orReg (x y : Nibble) : Completes s (.orReg x y) (s.advance.setV x (s.getV x ||| s.getV y))
  | andReg (x y : Nibble) : Completes s (.andReg x y) (s.advance.setV x (s.getV x &&& s.getV y))
  | xorReg (x y : Nibble) : Completes s (.xorReg x y) (s.advance.setV x (s.getV x ^^^ s.getV y))
  | addReg (x y : Nibble) : Completes s (.addReg x y)
      (let t := s.flagged (Flags.carry (s.getV x) (s.getV y)); t.setV x (t.getV x + t.getV y))
  | sub (x y : Nibble) : Completes s (.sub x y)
      (let t := s.flagged (Flags.noBorrow (s.getV x) (s.getV y)); t.setV x (t.getV x - t.getV y))
  | shr (x y : Nibble) : Completes s (.shr x y)
      (let t := s.flagged (Flags.shiftedOutLow (s.getV x)); t.setV x (t.getV x >>> 1))
  | subn (x y : Nibble) : Completes s (.subn x y)
      (let t := s.flagged (Flags.noBorrow (s.getV y) (s.getV x)); t.setV x (t.getV y - t.getV x))
  | shl (x y : Nibble) : Completes s (.shl x y)
      (let t := s.flagged (Flags.shiftedOutHigh (s.getV x)); t.setV x (t.getV x <<< 1))
  | sneReg (x y : Nibble) : Completes s (.sneReg x y) (s.advance.skipIf (s.getV x != s.getV y))
  | ldI (nnn : BitVec 12) : Completes s (.ldI nnn) (s.advance.setI (addrOfNNN nnn))
  | jpV0 (nnn : BitVec 12) : Completes s (.jpV0 nnn) (s.advance.setPc (jumpOffset nnn (s.getV v0)))
  | rnd (x : Nibble) (nn : Byte) : Completes s (.rnd x nn) (s.advance.setV x (s.randIn &&& nn)).nextRand
  | drw (x y n : Nibble) (h : ∀ k < n.toNat, s.indexAddr + k ≤ 0xFFF) :
      Completes s (.drw x y n) ((s.advance.setFb (s.drawn x y n).1).setFlag (s.drawn x y n).2)
  | skp (x : Nibble) (h : (s.getV x).toNat ≤ 15) :
      Completes s (.skp x) (s.advance.skipIf (s.key (s.getV x).toNat))
  | sknp (x : Nibble) (h : (s.getV x).toNat ≤ 15) :
      Completes s (.sknp x) (s.advance.skipIf (!s.key (s.getV x).toNat))
  | ldVxDt (x : Nibble) : Completes s (.ldVxDt x) (s.advance.setV x s.dt)
  | ldVxKPressed (x : Nibble) {k : Nat} (h : s.lowestKey = some k) :
      Completes s (.ldVxK x) (s.advance.setV x (BitVec.ofNat 8 k))
  | ldVxKWait (x : Nibble) (h : s.lowestKey = none) : Completes s (.ldVxK x) (s.advance.setPc (s.pc + 2 - 2))
  | ldDtVx (x : Nibble) : Completes s (.ldDtVx x) (s.advance.setDt (s.getV x))
  | ldStVx (x : Nibble) : Completes s (.ldStVx x) (s.advance.setSt (s.getV x))
  | addI (x : Nibble) : Completes s (.addI x)
      (let t := s.flagged (Flags.indexOverflow s.i (s.getV x)); t.setI (addIndex s.i (t.getV x)))
  | ldF (x : Nibble) : Completes s (.ldF x) (s.advance.setI (glyphAddr (s.getV x)))
  | ldB (x : Nibble) (h : s.indexAddr + 2 ≤ 0xFFF) :
      Completes s (.ldB x) (s.advance.pokes s.indexAddr (bcdDigits (s.getV x)))
  | storeRegs (x : Nibble) (h : s.indexAddr + x.toNat ≤ 0xFFF) :
      Completes s (.storeRegs x) (s.advance.pokes s.indexAddr (s.regsUpTo x))
  | loadRegs (x : Nibble) (h : s.indexAddr + x.toNat ≤ 0xFFF) :
      Completes s (.loadRegs x) (s.advance.setVsFrom 0 (s.spriteRows (x.toNat + 1)))

/-- `Raises s i kind`: on `s` the instruction `i` raises the fault `kind` (R174). -/
inductive Raises (s : State) : Instr → Fault → Prop
  | call (nnn : BitVec 12) (h : s.cfg.stackDepth ≤ s.stack.length) : Raises s (.call nnn) .stackOverflow
  | drw (x y n : Nibble) (h : ∃ k < n.toNat, s.indexAddr + k > 0xFFF) : Raises s (.drw x y n) .addressOutOfRange
  | skp (x : Nibble) (h : (s.getV x).toNat > 15) : Raises s (.skp x) .keyIndexOutOfRange
  | sknp (x : Nibble) (h : (s.getV x).toNat > 15) : Raises s (.sknp x) .keyIndexOutOfRange
  | ldB (x : Nibble) (h : s.indexAddr + 2 > 0xFFF) : Raises s (.ldB x) .addressOutOfRange
  | storeRegs (x : Nibble) (h : s.indexAddr + x.toNat > 0xFFF) : Raises s (.storeRegs x) .addressOutOfRange
  | loadRegs (x : Nibble) (h : s.indexAddr + x.toNat > 0xFFF) : Raises s (.loadRegs x) .addressOutOfRange

theorem Completes.exec {s t : State} {i : Instr} (h : Completes s i t) : exec i s = .next t := by
  cases h with
  | retEmpty h => exact exec_ret_nil h
  | retPop h => exact exec_ret_cons h
  | call nnn h => exact exec_call_ok nnn h
  | drw x y n h => exact exec_drw_ok x y n h
  | skp x h => exact exec_skp_ok x h
  | sknp x h => exact exec_sknp_ok x h
  | ldVxKPressed x h => exact exec_ldVxK_some x h
  | ldVxKWait x h => exact exec_ldVxK_none x h
  | ldB x h => exact exec_ldB_ok x h
  | storeRegs x h => exact exec_storeRegs_ok x h
  | loadRegs x h => exact exec_loadRegs_ok x h
  | _ => rfl

theorem Raises.exec {s : State} {i : Instr} {kind : Fault} (h : Raises s i kind) :
    exec i s = .next (s.takeFault kind (encode i)) := by
  cases h with
  | call nnn h => exact exec_call_overflow nnn h
  | drw x y n h => exact exec_drw_fault x y n h
  | skp x h => exact exec_skp_fault x h
  | sknp x h => exact exec_sknp_fault x h
  | ldB x h => exact exec_ldB_fault x h
  | storeRegs x h => exact exec_storeRegs_fault x h
  | loadRegs x h => exact exec_loadRegs_fault x h

/-- Every instruction does one or the other on every state. -/
theorem completes_or_raises (s : State) (i : Instr) : (∃ t, Completes s i t) ∨ ∃ kind, Raises s i kind := by
  cases i with
  | ret =>
    cases h : s.stack with
    | nil => exact .inl ⟨_, .retEmpty h⟩
    | cons a rest => exact .inl ⟨_, .retPop h⟩
  | ldVxK x =>
    cases h : s.lowestKey with
    | none => exact .inl ⟨_, .ldVxKWait x h⟩
    | some k => exact .inl ⟨_, .ldVxKPressed x h⟩
  | call nnn =>
    exact (Nat.lt_or_ge _ _).imp (fun h => ⟨_, .call nnn h⟩) fun h => ⟨_, .call nnn h⟩
  | drw x y n =>
    by_cases h : ∀ k < n.toNat, s.indexAddr + k ≤ 0xFFF
    · exact .inl ⟨_, .drw x y n h⟩
    · exact .inr ⟨_, .drw x y n (by simpa using h)⟩
  | skp x => exact (le_or_gt _ _).imp (fun h => ⟨_, .skp x h⟩) fun h => ⟨_, .skp x h⟩
  | sknp x => exact (le_or_gt _ _).imp (fun h => ⟨_, .sknp x h⟩) fun h => ⟨_, .sknp x h⟩
  | ldB x => exact (le_or_gt _ _).imp (fun h => ⟨_, .ldB x h⟩) fun h => ⟨_, .ldB x h⟩
  | storeRegs x => exact (le_or_gt _ _).imp (fun h => ⟨_, .storeRegs x h⟩) fun h => ⟨_, .storeRegs x h⟩
  | loadRegs x => exact (le_or_gt _ _).imp (fun h => ⟨_, .loadRegs x h⟩) fun h => ⟨_, .loadRegs x h⟩
  | _ => exact .inl ⟨_, by constructor⟩

/-- Everything `exec` can answer: the state a completed instruction leaves, or the fault entry of a raised fault. -/
theorem exec_iff {s t : State} {i : Instr} :
    exec i s = .next t ↔ Completes s i t ∨ ∃ kind, Raises s i kind ∧ t = s.takeFault kind (encode i) := by
  constructor
  · intro h
    obtain ⟨u, hu⟩ | ⟨kind, hk⟩ := completes_or_raises s i
    · rw [hu.exec] at h
      cases h
      exact .inl hu
    · rw [hk.exec] at h
      cases h
      exact .inr ⟨kind, hk, rfl⟩
  · rintro (h | ⟨kind, hk, rfl⟩)
    · exact h.exec
    · exact hk.exec

/-! ### What a completed instruction leaves unchanged -/

section
variable {s t : State} {i : Instr}

theorem Completes.mem_eq (h : Completes s i t) (hi : ∀ x, i ≠ .ldB x ∧ i ≠ .storeRegs x) : t.mem = s.mem := by
  cases h with
  | ldB x => exact absurd rfl (hi x).1
  | storeRegs x => exact absurd rfl (hi x).2
  | loadRegs x => simp
  | _ => rfl

theorem Completes.fb_eq (h : Completes s i t) (hc : i ≠ .cls) (hd : ∀ x y n, i ≠ .drw x y n) : t.fb = s.fb := by
  cases h with
  | cls => exact absurd rfl hc
  | drw x y n => exact absurd rfl (hd x y n)
  | ldB x | storeRegs x | loadRegs x => simp
  | _ => rfl

theorem Completes.i_eq (h : Completes s i t) (hl : ∀ a, i ≠ .ldI a) (ha : ∀ x, i ≠ .addI x ∧ i ≠ .ldF x) :
    t.i = s.i := by
  cases h with
  | ldI a => exact absurd rfl (hl a)
  | addI x => exact absurd rfl (ha x).1
  | ldF x => exact absurd rfl (ha x).2
  | ldB x | storeRegs x | loadRegs x => simp
  | _ => rfl

theorem Completes.stack_eq (h : Completes s i t) (hr : i ≠ .ret) (hc : ∀ a, i ≠ .call a) : t.stack = s.stack := by
  cases h with
  | retPop => exact absurd rfl hr
  | call a => exact absurd rfl (hc a)
  | ldB x | storeRegs x | loadRegs x => simp
  | _ => rfl

theorem Completes.dt_eq (h : Completes s i t) (hi : ∀ x, i ≠ .ldDtVx x) : t.dt = s.dt := by
  cases h with
  | ldDtVx x => exact absurd rfl (hi x)
  | ldB x | storeRegs x | loadRegs x => simp
  | _ => rfl

theorem Completes.st_eq (h : Completes s i t) (hi : ∀ x, i ≠ .ldStVx x) : t.st = s.st := by
  cases h with
  | ldStVx x => exact absurd rfl (hi x)
  | ldB x | storeRegs x | loadRegs x => simp
  | _ => rfl

theorem Completes.keys_eq (h : Completes s i t) : t.keys = s.keys := by
  cases h with
  | ldB x | storeRegs x | loadRegs x => simp
  | _ => rfl

theorem Completes.cfg_eq (h : Completes s i t) : t.cfg = s.cfg := by
  cases h with
  | ldB x | storeRegs x | loadRegs x => simp
  | _ => rfl

theorem Completes.rs_eq (h : Completes s i t) : t.rs = s.rs := by
  cases h with
  | ldB x | storeRegs x | loadRegs x => simp
  | _ => rfl

end

/-- Settles O18: the frame of each part when the instruction completes, and the fault entry, which writes none of these
parts (R172). -/
theorem writersOfEachPart : Obligations.WritersOfEachPart := by
  intro i s t h
  obtain hc | ⟨kind, -, rfl⟩ := exec_iff.mp h
  · exact ⟨fun hm => State.peek_congr (hc.mem_eq hm) hc.cfg_eq, hc.fb_eq, hc.i_eq, hc.stack_eq, hc.dt_eq, hc.st_eq,
      hc.keys_eq, hc.cfg_eq⟩
  · simp

/-! ### The invariant (R13, R14, R26) -/

theorem addrOfNNN_toNat_le (nnn : BitVec 12) : (addrOfNNN nnn).toNat ≤ 0xFFF := by
  rw [addrOfNNN]
  bv_omega

theorem addIndex_toNat_le (a : Addr) (b : Byte) : (addIndex a b).toNat ≤ 0xFFF := by
  rw [addIndex, BitVec.toNat_ofNat]
  omega

theorem glyphAddr_toNat_le (b : Byte) : (glyphAddr b).toNat ≤ 0xFFF := by
  have : b.toNat < 2 ^ 8 := b.isLt
  rw [glyphAddr, BitVec.toNat_ofNat]
  exact (Nat.mod_le _ _).trans (by omega)

theorem jumpOffset_toNat_le (nnn : BitVec 12) (b : Byte) : (jumpOffset nnn b).toNat ≤ 0x10FE := by
  rw [jumpOffset, BitVec.toNat_ofNat]
  omega

theorem bcdDigits_length (b : Byte) : (bcdDigits b).length = 3 := rfl

theorem toNat_add_two_le {a : Addr} (h : a.toNat ≤ 0xFFE) : (a + 2).toNat ≤ 0x1000 := by bv_omega

theorem State.skipIf_pc_le {s : State} (c : Bool) (h : s.pc.toNat ≤ 0xFFE) :
    (s.advance.skipIf c).pc.toNat ≤ 0x10FE := by
  rw [State.skipIf_pc, State.advance_pc]
  split <;> bv_omega

section
variable {s t : State} {i : Instr}

theorem Completes.mem_wf (h : Completes s i t) (hs : s.mem.wf s.cfg.font = true) : t.mem.wf t.cfg.font = true := by
  cases h with
  | ldB x h =>
    rw [State.pokes_cfg]
    refine State.pokes_wf s.advance _ _ (fun k hk => ?_) hs
    rw [bcdDigits_length] at hk
    omega
  | storeRegs x h =>
    rw [State.pokes_cfg]
    refine State.pokes_wf s.advance _ _ (fun k hk => ?_) hs
    rw [State.regsUpTo_length] at hk
    omega
  | loadRegs x => simpa using hs
  | _ => exact hs

theorem Completes.index_le (h : Completes s i t) (hs : s.i.toNat ≤ 0xFFF) : t.i.toNat ≤ 0xFFF := by
  cases h with
  | ldI nnn => exact addrOfNNN_toNat_le nnn
  | addI x => exact addIndex_toNat_le _ _
  | ldF x => exact glyphAddr_toNat_le _
  | ldB x | storeRegs x | loadRegs x => simpa using hs
  | _ => exact hs

/-- After an instruction that a fetch at pc could read, pc is at most 0x10FE, the largest target of BNNN (R13). -/
theorem Completes.pc_le (h : Completes s i t) (hpc : s.pc.toNat ≤ 0xFFE) (hret : ∀ a ∈ s.stack, a.toNat ≤ 0x1000) :
    t.pc.toNat ≤ 0x10FE := by
  have hnext : (s.pc + 2).toNat ≤ 0x10FE := (toNat_add_two_le hpc).trans (by decide)
  cases h with
  | retPop h => exact (hret _ (by simp [h])).trans (by decide)
  | jp nnn | call nnn => exact (addrOfNNN_toNat_le nnn).trans (by decide)
  | jpV0 nnn => exact jumpOffset_toNat_le nnn _
  | seImm | sneImm | seReg | sneReg | skp | sknp => exact State.skipIf_pc_le _ hpc
  | ldVxKWait x =>
    rw [State.setPc_pc, BitVec.add_sub_cancel]
    omega
  | ldB x | storeRegs x | loadRegs x => simpa using hnext
  | _ => exact hnext

theorem Completes.depth_le (h : Completes s i t) (hs : s.stack.length ≤ s.cfg.stackDepth) :
    t.stack.length ≤ t.cfg.stackDepth := by
  cases h with
  | retPop h =>
    rw [h] at hs
    exact (Nat.le_succ _).trans hs
  | call nnn h => exact h
  | ldB x | storeRegs x | loadRegs x => simpa using hs
  | _ => exact hs

theorem Completes.returns_le (h : Completes s i t) (hpc : s.pc.toNat ≤ 0xFFE)
    (hs : ∀ a ∈ s.stack, a.toNat ≤ 0x1000) : ∀ a ∈ t.stack, a.toNat ≤ 0x1000 := by
  cases h with
  | retPop h =>
    rw [h] at hs
    exact (List.forall_mem_cons.mp hs).2
  | call nnn => exact List.forall_mem_cons.mpr ⟨toNat_add_two_le hpc, hs⟩
  | ldB x | storeRegs x | loadRegs x => simpa using hs
  | _ => exact hs

/-- An instruction fetched inside M on a READY state keeps the invariant when it completes. -/
theorem Completes.inv (h : Completes s i t) (hr : s.rs = .ready) (hpc : s.pc.toNat ≤ 0xFFE) (hs : s.Inv) : t.Inv := by
  have hu : s.rs ≠ .uninit := by simp [hr]
  have hret := hs.returns hu
  exact {
    memory := h.mem_wf hs.memory
    index := fun _ => h.index_le (hs.index hu)
    counter := fun _ => h.pc_le hpc hret
    depth := fun _ => h.depth_le (hs.depth hu)
    returns := fun _ => h.returns_le hpc hret }

/-- The invariant speaks of M, I, pc, S, the parameters and whether RS has left UNINIT. -/
theorem State.Inv.congr (hs : s.Inv) (hmem : t.mem = s.mem) (hi : t.i = s.i) (hpc : t.pc = s.pc)
    (hstack : t.stack = s.stack) (hcfg : t.cfg = s.cfg) (hrs : t.rs ≠ .uninit → s.rs ≠ .uninit) : t.Inv := by
  obtain ⟨memory, index, counter, depth, returns⟩ := hs
  rw [← hmem, ← hcfg] at memory
  rw [← hi] at index
  rw [← hpc] at counter
  rw [← hstack, ← hcfg] at depth
  rw [← hstack] at returns
  exact ⟨memory, index ∘ hrs, counter ∘ hrs, depth ∘ hrs, returns ∘ hrs⟩

end

/-! ### STEP in each run state (R51) -/

theorem step_uninit {s : State} (h : s.rs = .uninit) : step s = .next s.refuseStep := by simp [step, h]

theorem step_faulted {s : State} {fr : FaultRecord} (h : s.rs = .faulted fr) :
    step s = .next (s.repeatFault fr.kind) := by simp [step, h]

/-- Settles O15: a refused, repeated or faulting STEP leaves everything the invariant speaks of but RS, and each
completed instruction keeps it part by part. -/
theorem stepKeepsInvariant : Obligations.StepKeepsInvariant := by
  intro s t hs h
  cases hr : s.rs with
  | uninit =>
    rw [step_uninit hr] at h
    cases h
    exact hs.congr rfl rfl rfl rfl rfl id
  | faulted fr =>
    rw [step_faulted hr] at h
    cases h
    exact hs.congr rfl rfl rfl rfl rfl id
  | ready =>
    have hu : s.rs ≠ .uninit := by simp [hr]
    obtain ⟨-, rfl⟩ | ⟨-, -, rfl⟩ | ⟨hpc, i, -, hx⟩ := step_ready_cases hr h
    · exact hs.congr rfl rfl rfl rfl rfl fun _ => hu
    · exact hs.congr rfl rfl rfl rfl rfl fun _ => hu
    · obtain hc | ⟨kind, -, rfl⟩ := exec_iff.mp hx
      · exact hc.inv hr hpc hs
      · exact hs.congr rfl rfl rfl rfl rfl fun _ => hu

/-! ### Canonical memories (R19, R39) -/

/-- Below its first possible cell a canonical memory reads as the reset image. -/
theorem Memory.read_of_lt {font : Vector Byte 80} {m : Memory} {lo a : Nat} (h : m.wfFrom font lo = true)
    (ha : a < lo) : m.read font a = resetImage font a := by
  induction m generalizing lo with
  | nil => rfl
  | cons c m ih =>
    obtain ⟨k, b⟩ := c
    obtain ⟨hk, -, -, hm⟩ := Memory.wfFrom_cons.mp h
    rw [Memory.read, if_neg (by omega)]
    exact ih hm (by omega)

@[simp] theorem Memory.read_cons_self (font : Vector Byte 80) (k : Nat) (b : Byte) (m : Memory) :
    Memory.read font ((k, b) :: m) k = b := by simp [Memory.read]

theorem Memory.read_cons_of_ne (font : Vector Byte 80) {k a : Nat} (b : Byte) (m : Memory) (h : k ≠ a) :
    Memory.read font ((k, b) :: m) a = m.read font a := by simp [Memory.read, h]

/-- A canonical memory whose cells all lie above `k` differs at `k` from one with a cell there. -/
theorem Memory.read_ne_of_lt {font : Vector Byte 80} {m n : Memory} {lo k : Nat} {b : Byte}
    (hm : Memory.wfFrom font lo ((k, b) :: m) = true) (hn : n.wfFrom font (k + 1) = true) :
    Memory.read font ((k, b) :: m) k ≠ n.read font k := by
  obtain ⟨-, -, hb, -⟩ := Memory.wfFrom_cons.mp hm
  rwa [Memory.read_cons_self, Memory.read_of_lt hn (Nat.lt_succ_self k)]

theorem Memory.wfFrom_ext {font : Vector Byte 80} {m n : Memory} {lo : Nat} (hm : m.wfFrom font lo = true)
    (hn : n.wfFrom font lo = true) (h : ∀ a, m.read font a = n.read font a) : m = n := by
  induction m generalizing n lo with
  | nil =>
    cases n with
    | nil => rfl
    | cons d n => exact absurd (h d.1).symm (Memory.read_ne_of_lt hn rfl)
  | cons c m ih =>
    obtain ⟨k, b⟩ := c
    cases n with
    | nil => exact absurd (h k) (Memory.read_ne_of_lt hm rfl)
    | cons d n =>
      obtain ⟨j, e⟩ := d
      obtain ⟨-, hkM, hb, hm'⟩ := Memory.wfFrom_cons.mp hm
      obtain ⟨-, hjM, he, hn'⟩ := Memory.wfFrom_cons.mp hn
      rcases Nat.lt_trichotomy k j with hlt | rfl | hlt
      · exact absurd (h k) (Memory.read_ne_of_lt hm (Memory.wfFrom_cons.mpr ⟨hlt, hjM, he, hn'⟩))
      · have hbe : b = e := by simpa using h k
        have hrest : ∀ a, Memory.read font m a = Memory.read font n a := by
          intro a
          by_cases hka : k = a
          · subst hka
            rw [Memory.read_of_lt hm' (Nat.lt_succ_self k), Memory.read_of_lt hn' (Nat.lt_succ_self k)]
          · simpa [Memory.read_cons_of_ne font _ _ hka] using h a
        rw [hbe, ih hm' hn' hrest]
      · exact absurd (h j).symm (Memory.read_ne_of_lt hn (Memory.wfFrom_cons.mpr ⟨hlt, hkM, hb, hm'⟩))

/-- Settles O17: two canonical memories are compared cell by cell; the lower of two different first cells would be read
as the reset image in the other memory. -/
theorem canonicalMemoryIsItsBytes : Obligations.CanonicalMemoryIsItsBytes :=
  fun _ _ _ hm hn h => Memory.wfFrom_ext hm hn h

/-! ### The flag register (R11) -/

/-- A write to one register that changes another reading is a write to that register. -/
theorem State.eq_of_getV_setV_ne {s : State} {x r : Nibble} {b : Byte} (h : (s.setV x b).getV r ≠ s.getV r) : x = r := by
  by_contra hne
  exact h (State.getV_setV_of_ne s b (Ne.symm hne))

/-- FX65 changes VF only when VF is among V[0] to V[X]. -/
theorem State.eq_vF_of_getV_setVsFrom_ne {s : State} {x : Nibble} {bs : List Byte} (hl : bs.length = x.toNat + 1)
    (h : (s.setVsFrom 0 bs).getV vF ≠ s.getV vF) : x = vF := by
  by_contra hne
  refine h ?_
  have hF : vF.toNat = 15 := rfl
  have hx : x.toNat < 15 := by
    have := x.isLt
    have : x.toNat ≠ vF.toNat := fun e => hne (BitVec.eq_of_toNat_eq e)
    omega
  rw [State.getV_setVsFrom, if_pos (Nat.zero_le _)]
  exact List.getD_eq_default _ _ (by omega)

/-- Settles O19: an instruction that completes and changes VF is a flag instruction or wrote V[X] with X = F; a fault
entry writes no register. -/
theorem writersOfTheFlag : Obligations.WritersOfTheFlag := by
  intro i s t h hne
  obtain hc | ⟨kind, -, rfl⟩ := exec_iff.mp h
  · cases hc with
    | addReg x y | sub x y | shr x y | subn x y | shl x y | addI x | drw x y n => simp
    | ldImm x | addImm x | rnd x | ldReg x | orReg x | andReg x | xorReg x | ldVxDt x | ldVxKPressed x =>
      obtain rfl : x = vF := State.eq_of_getV_setV_ne (s := s.advance) hne
      simp
    | loadRegs x =>
      obtain rfl : x = vF := State.eq_vF_of_getV_setVsFrom_ne (s := s.advance) (by simp [State.spriteRows]) hne
      simp
    | ldB x | storeRegs x => simp at hne
    | _ => exact absurd rfl hne
  · exact absurd rfl hne

/-! ### The run state (R20) -/

theorem exec_rs_ne_uninit {i : Instr} {s t : State} (h : exec i s = .next t) (hs : s.rs ≠ .uninit) :
    t.rs ≠ .uninit := by
  obtain hc | ⟨kind, -, rfl⟩ := exec_iff.mp h
  · rwa [hc.rs_eq]
  · simp

theorem step_rs_ne_uninit {s t : State} (h : step s = .next t) (hs : s.rs ≠ .uninit) : t.rs ≠ .uninit := by
  cases hr : s.rs with
  | uninit => exact absurd hr hs
  | faulted fr =>
    rw [step_faulted hr] at h
    cases h
    exact hs
  | ready =>
    obtain ⟨-, rfl⟩ | ⟨-, -, rfl⟩ | ⟨-, i, -, hx⟩ := step_ready_cases hr h
    · simp
    · simp
    · exact exec_rs_ne_uninit hx hs

@[simp] theorem State.tick_rs (s : State) : s.tick.2.rs = s.rs := by
  unfold State.tick
  split <;> rfl

theorem State.hardReset_of_fits (s : State) {rom : List Byte} (h : rom.length ≤ maxRom) :
    s.hardReset rom = (.ok, ({ s with mem := romCells s.cfg.font programBase rom }).softReset) :=
  if_neg (Nat.not_lt.mpr h)

theorem State.hardReset_of_too_long (s : State) {rom : List Byte} (h : rom.length > maxRom) :
    s.hardReset rom = (.romTooLarge, s) := if_pos h

/-- Settles O20: STEP and TICK keep RS or enter FAULTED, SET_KEYS and a refused HARD_RESET keep it, and a reset makes it
READY. -/
theorem runStateNeverReturnsToUninit : Obligations.RunStateNeverReturnsToUninit := by
  refine ⟨fun s t op h hs => ?_, fun s => ⟨rfl, fun rom hrom => ?_⟩⟩
  · cases op with
    | step rand => exact step_rs_ne_uninit h hs
    | tick =>
      cases h
      rwa [State.tick_rs]
    | setKeys keysIn =>
      cases h
      exact hs
    | softReset =>
      cases h
      simp [State.softResetOp]
    | hardReset rom =>
      cases h
      rcases le_or_gt rom.length maxRom with hrom | hrom
      · simp [State.hardReset_of_fits s hrom]
      · rwa [State.hardReset_of_too_long s hrom]
  · simp [State.hardReset_of_fits s hrom]

/-! ### The parts that instructions do not read: rand_in and ST (R16, R22) -/

/-- The state with other values of rand_in and ST, as functions of the old ones. -/
def State.mapRandSt (r q : Byte → Byte) (s : State) : State := { s with randIn := r s.randIn, st := q s.st }

theorem State.pokes_mapRandSt (r q : Byte → Byte) (s : State) (a : Nat) (bs : List Byte) :
    (s.mapRandSt r q).pokes a bs = (s.pokes a bs).mapRandSt r q := by
  induction bs generalizing s a with
  | nil => rfl
  | cons b bs ih => exact ih (s.poke a b) (a + 1)

theorem State.setVsFrom_mapRandSt (r q : Byte → Byte) (s : State) (k : Nat) (bs : List Byte) :
    (s.mapRandSt r q).setVsFrom k bs = (s.setVsFrom k bs).mapRandSt r q := by
  induction bs generalizing s k with
  | nil => rfl
  | cons b bs ih => exact ih { s with v := s.v.setIfInBounds k b } (k + 1)

section
variable {s t : State} {i : Instr} {r q : Byte → Byte}

/-- A change of rand_in passes through every instruction but CXNN, a change of ST through every one but FX18. -/
theorem Completes.mapRandSt (h : Completes s i t) (hr : r = id ∨ ∀ x nn, i ≠ .rnd x nn)
    (hq : q = id ∨ ∀ x, i ≠ .ldStVx x) : Completes (s.mapRandSt r q) i (t.mapRandSt r q) := by
  cases h with
  | rnd x nn =>
    obtain rfl := hr.resolve_right fun hi => hi x nn rfl
    exact .rnd x nn
  | ldStVx x =>
    obtain rfl := hq.resolve_right fun hi => hi x rfl
    exact .ldStVx x
  | ldB x h =>
    rw [← State.pokes_mapRandSt]
    exact .ldB x h
  | storeRegs x h =>
    rw [← State.pokes_mapRandSt]
    exact .storeRegs x h
  | loadRegs x h =>
    rw [← State.setVsFrom_mapRandSt]
    exact .loadRegs x h
  | _ => constructor <;> assumption

/-- No fault depends on rand_in or ST. -/
theorem Raises.mapRandSt {kind : Fault} (h : Raises s i kind) : Raises (s.mapRandSt r q) i kind := by
  cases h <;> constructor <;> assumption

theorem exec_mapRandSt (h : exec i s = .next t) (hr : r = id ∨ ∀ x nn, i ≠ .rnd x nn)
    (hq : q = id ∨ ∀ x, i ≠ .ldStVx x) : exec i (s.mapRandSt r q) = .next (t.mapRandSt r q) := by
  obtain hc | ⟨kind, hk, rfl⟩ := exec_iff.mp h
  · exact (hc.mapRandSt hr hq).exec
  · exact hk.mapRandSt.exec

end

/-- Settles O21: any other byte on rand_in passes through an instruction that is not CXNN. -/
theorem onlyRndReadsRandomInput : Obligations.OnlyRndReadsRandomInput :=
  fun _ _ _ b hi h => exec_mapRandSt (r := fun _ => b) (q := id) h (.inr hi) (.inl rfl)

theorem unchangedBut_st (t : State) (b : Byte) : UnchangedBut [.st] t { t with st := b } := by
  intro p hp
  cases p with
  | st => simp at hp
  | v | mem => exact fun _ => rfl
  | _ => rfl

/-- Settles O22: any other ST passes through an instruction that is not FX18, and FX18 overwrites it with V[X]. -/
theorem noInstructionReadsSoundTimer : Obligations.NoInstructionReadsSoundTimer := by
  intro i s t b h
  by_cases hst : ∃ x, i = .ldStVx x
  · obtain ⟨x, rfl⟩ := hst
    exact ⟨t, h, unchangedBut_st t t.st⟩
  · have hi : ∀ x, i ≠ .ldStVx x := fun x e => hst ⟨x, e⟩
    exact ⟨_, exec_mapRandSt (r := id) (q := fun _ => b) h (.inl rfl) (.inr hi), unchangedBut_st t b⟩

end Sys2Proof.Machine
end

section
/-! PROOF. The fetch (O8, spec/20_memory.md): the word it reads, and the frame of a step whose fetch raises. -/

namespace Sys2Proof.Machine

/-- A READY step whose fetch raises takes the fetch's fault entry (R35, R51). -/
theorem step_fetch_fault {s : State} (hr : s.rs = .ready) (hpc : s.pc.toNat > 0xFFE) :
    step s = .next (s.takeFetchFault .addressOutOfRange) := by
  simp [step, hr, State.fetch_error hpc]

/-- The frame of a fetch fault (R172), with the count of free values that supplies its word (log 4). -/
theorem State.takeFetchFault_unchangedBut (s : State) (kind : Fault) :
    UnchangedBut [.rs, .stepResult, .draws] s (s.takeFetchFault kind) := by
  intro p hp
  cases p with
  | rs | stepResult | draws => simp at hp
  | v | mem => exact fun _ => rfl
  | _ => rfl

/-- Settles O8: within M the fetch answers the word at pc, and above 0xFFE the step is the fetch's fault entry. -/
theorem fetchReadsTwoBytesOrFaults : Obligations.FetchReadsTwoBytesOrFaults :=
  ⟨fun _ hpc => State.fetch_ok hpc,
   fun s hr hpc => ⟨_, _, step_fetch_fault hr hpc, s.takeFetchFault_rs _, s.takeFetchFault_stepResult _,
     s.takeFetchFault_unchangedBut _⟩⟩

end Sys2Proof.Machine
end

section
/-! PROOF. The encoding (O1 to O7 and O9, spec/30_encoding.md): the instruction a word stands for as a row of R56 with
the word's own fields, the inverse of the decoder and the words it refuses, and what STEP does with each answer. -/

namespace Sys2Proof

/-! ### A word from its fixed fields (R53, R54) -/

section
variable {op : OpWord}

theorem eq_of_top_nnn {a : Nibble} (ht : op.top = a) : (a ++ op.nnn : OpWord) = op := by
  rw [← ht, one_twelve_fields]

theorem eq_of_top_nn {a : Nibble} {c : Byte} (ht : op.top = a) (hnn : op.nn = c) : (a ++ op.x ++ c : OpWord) = op := by
  rw [← ht, ← hnn, two_eight_fields]

theorem eq_of_top_n {a d : Nibble} (ht : op.top = a) (hn : op.n = d) : (a ++ op.x ++ op.y ++ d : OpWord) = op := by
  rw [← ht, ← hn, four_fields]

/-! Equal under a row's mask, two words agree on the fixed fields of the row's format. -/

variable {w : OpWord}

theorem top_eq_of_and_F000 (h : op &&& 0xF000#16 = w &&& 0xF000#16) : op.top = w.top := by
  simpa [and_F000] using congrArg OpWord.top h

theorem top_n_eq_of_and_F00F (h : op &&& 0xF00F#16 = w &&& 0xF00F#16) : op.top = w.top ∧ op.n = w.n := by
  rw [and_F00F, and_F00F] at h
  exact ⟨by simpa using congrArg OpWord.top h, by simpa using congrArg OpWord.n h⟩

theorem top_nn_eq_of_and_F0FF (h : op &&& 0xF0FF#16 = w &&& 0xF0FF#16) : op.top = w.top ∧ op.nn = w.nn := by
  rw [and_F0FF, and_F0FF] at h
  exact ⟨by simpa using congrArg OpWord.top h, by simpa using congrArg OpWord.nn h⟩

end

/-! ### The instruction of a row with a word's fields (R53, R56) -/

/-- The instruction of the same row whose operands are the fields of `op`; `encode_withFields` and
`decodeWord_of_selects` tie it to the encoder and the decoder. -/
def Instr.withFields (op : OpWord) : Instr → Instr
  | .cls => .cls
  | .ret => .ret
  | .jp _ => .jp op.nnn
  | .call _ => .call op.nnn
  | .seImm _ _ => .seImm op.x op.nn
  | .sneImm _ _ => .sneImm op.x op.nn
  | .seReg _ _ => .seReg op.x op.y
  | .ldImm _ _ => .ldImm op.x op.nn
  | .addImm _ _ => .addImm op.x op.nn
  | .ldReg _ _ => .ldReg op.x op.y
  | .orReg _ _ => .orReg op.x op.y
  | .andReg _ _ => .andReg op.x op.y
  | .xorReg _ _ => .xorReg op.x op.y
  | .addReg _ _ => .addReg op.x op.y
  | .sub _ _ => .sub op.x op.y
  | .shr _ _ => .shr op.x op.y
  | .subn _ _ => .subn op.x op.y
  | .shl _ _ => .shl op.x op.y
  | .sneReg _ _ => .sneReg op.x op.y
  | .ldI _ => .ldI op.nnn
  | .jpV0 _ => .jpV0 op.nnn
  | .rnd _ _ => .rnd op.x op.nn
  | .drw _ _ _ => .drw op.x op.y op.n
  | .skp _ => .skp op.x
  | .sknp _ => .sknp op.x
  | .ldVxDt _ => .ldVxDt op.x
  | .ldVxK _ => .ldVxK op.x
  | .ldDtVx _ => .ldDtVx op.x
  | .ldStVx _ => .ldStVx op.x
  | .addI _ => .addI op.x
  | .ldF _ => .ldF op.x
  | .ldB _ => .ldB op.x
  | .storeRegs _ => .storeRegs op.x
  | .loadRegs _ => .loadRegs op.x

@[simp] theorem Instr.row_withFields (op : OpWord) (i : Instr) : (i.withFields op).row = i.row := by
  cases i <;> rfl

open Laws in
/-- The family EncodeInRow of Laws/PerInstr.lean, for every instruction. -/
theorem encode_selects_row (i : Instr) : encode i &&& i.row.mask = i.row.bits := by
  have h : EncodeInRow.Statement i := by
    cases i
    exacts [EncodeInRow.cls, EncodeInRow.ret, EncodeInRow.jp _, EncodeInRow.call _, EncodeInRow.seImm _ _,
      EncodeInRow.sneImm _ _, EncodeInRow.seReg _ _, EncodeInRow.ldImm _ _, EncodeInRow.addImm _ _,
      EncodeInRow.ldReg _ _, EncodeInRow.orReg _ _, EncodeInRow.andReg _ _, EncodeInRow.xorReg _ _,
      EncodeInRow.addReg _ _, EncodeInRow.sub _ _, EncodeInRow.shr _ _, EncodeInRow.subn _ _, EncodeInRow.shl _ _,
      EncodeInRow.sneReg _ _, EncodeInRow.ldI _, EncodeInRow.jpV0 _, EncodeInRow.rnd _ _, EncodeInRow.drw _ _ _,
      EncodeInRow.skp _, EncodeInRow.sknp _, EncodeInRow.ldVxDt _, EncodeInRow.ldVxK _, EncodeInRow.ldDtVx _,
      EncodeInRow.ldStVx _, EncodeInRow.addI _, EncodeInRow.ldF _, EncodeInRow.ldB _, EncodeInRow.storeRegs _,
      EncodeInRow.loadRegs _]
  exact eq_of_beq h

/-- A word that selects a row is the word of that row's instruction with the word's fields: the row fixes the fields
under its mask, and the operands are all the others. -/
theorem encode_withFields {op : OpWord} {i : Instr} (h : op &&& i.row.mask = i.row.bits) :
    encode (i.withFields op) = op := by
  have hw : op &&& i.row.mask = encode i &&& i.row.mask := h.trans (encode_selects_row i).symm
  cases i with
  | cls | ret => exact h.symm.trans (and_FFFF op)
  | jp | call | ldI | jpV0 => exact eq_of_top_nnn ((top_eq_of_and_F000 hw).trans (top_one_twelve _ _))
  | seImm | sneImm | ldImm | addImm | rnd =>
    exact eq_of_top_nn ((top_eq_of_and_F000 hw).trans (top_two_eight _ _ _)) rfl
  | drw => exact eq_of_top_n ((top_eq_of_and_F000 hw).trans (top_four _ _ _ _)) rfl
  | seReg | sneReg | ldReg | orReg | andReg | xorReg | addReg | sub | shr | subn | shl =>
    obtain ⟨ht, hn⟩ := top_n_eq_of_and_F00F hw
    exact eq_of_top_n (ht.trans (top_four _ _ _ _)) (hn.trans (n_four _ _ _ _))
  | skp | sknp | ldVxDt | ldVxK | ldDtVx | ldStVx | addI | ldF | ldB | storeRegs | loadRegs =>
    obtain ⟨ht, hnn⟩ := top_nn_eq_of_and_F0FF hw
    exact eq_of_top_nn (ht.trans (top_two_eight _ _ _)) (hnn.trans (nn_two_eight _ _ _))

/-! ### Decoding what was encoded (R57) -/

@[simp] theorem decodeWord_encode (i : Instr) : decodeWord (encode i) = some i := by
  cases i with
  | cls | ret => rfl
  | jp | call | ldI | jpV0 | seImm | sneImm | ldImm | addImm | rnd | drw | seReg | sneReg =>
    simp [encode, decodeWord]
  | ldReg | orReg | andReg | xorReg | addReg | sub | shr | subn | shl => simp [encode, decodeWord, decodeGroup8]
  | skp | sknp => simp [encode, decodeWord, decodeGroupE]
  | ldVxDt | ldVxK | ldDtVx | ldStVx | addI | ldF | ldB | storeRegs | loadRegs =>
    simp [encode, decodeWord, decodeGroupF]

/-- The bytes of an instruction, high byte first, are read as its word; what follows them is left (R36, R50). -/
theorem decode_encodeBytes_append (i : Instr) (rest : List Byte) : decode (encodeBytes i ++ rest) = .ok (i, rest) := by
  simp [encodeBytes, decode]

/-- Settles O1: a field of each concatenated word is the operand or the fixed nibble written there, and the two bytes
of a word are the word. -/
theorem decodeEncodeRoundTrip : Obligations.DecodeEncodeRoundTrip :=
  fun i rest => ⟨decodeWord_encode i, decode_encodeBytes_append i rest⟩

/-! ### The word of what was decoded -/

section
variable {op : OpWord} {i : Instr}

theorem encode_of_decodeGroup0 (h : decodeGroup0 op = some i) : encode i = op := by
  unfold decodeGroup0 at h
  split at h
  next h0 => cases h; exact h0.symm
  next =>
    split at h
    next hE => cases h; exact hE.symm
    next => cases h

theorem encode_of_decodeGroup8 (ht : op.top = 0x8#4) (h : decodeGroup8 op = some i) : encode i = op := by
  unfold decodeGroup8 at h
  split at h <;> cases h <;> exact eq_of_top_n ht ‹_›

theorem encode_of_decodeGroupE (ht : op.top = 0xE#4) (h : decodeGroupE op = some i) : encode i = op := by
  unfold decodeGroupE at h
  split at h <;> cases h <;> exact eq_of_top_nn ht ‹_›

theorem encode_of_decodeGroupF (ht : op.top = 0xF#4) (h : decodeGroupF op = some i) : encode i = op := by
  unfold decodeGroupF at h
  split at h <;> cases h <;> exact eq_of_top_nn ht ‹_›

/-- Settles O2: each branch of the decoder that answers an instruction has tested every fixed field of its pattern and
takes every other field as an operand. -/
theorem decodedWordEncodesBack : Obligations.DecodedWordEncodesBack := by
  intro op i h
  unfold decodeWord at h
  split at h
  next ht => exact encode_of_decodeGroup0 h
  next ht => cases h; exact eq_of_top_nnn ht
  next ht => cases h; exact eq_of_top_nnn ht
  next ht => cases h; exact eq_of_top_nn ht rfl
  next ht => cases h; exact eq_of_top_nn ht rfl
  next ht =>
    split at h
    next hn => cases h; exact eq_of_top_n ht hn
    next => cases h
  next ht => cases h; exact eq_of_top_nn ht rfl
  next ht => cases h; exact eq_of_top_nn ht rfl
  next ht => exact encode_of_decodeGroup8 ht h
  next ht =>
    split at h
    next hn => cases h; exact eq_of_top_n ht hn
    next => cases h
  next ht => cases h; exact eq_of_top_nnn ht
  next ht => cases h; exact eq_of_top_nnn ht
  next ht => cases h; exact eq_of_top_nn ht rfl
  next ht => cases h; exact eq_of_top_n ht rfl
  next ht => exact encode_of_decodeGroupE ht h
  next ht => exact encode_of_decodeGroupF ht h
  next => cases h

end

/-! ### Decoding and the rows of the opcode map (R56, R57) -/

/-- A word that selects an instruction's row decodes to the instruction of that row with the word's fields. -/
theorem decodeWord_of_selects {op : OpWord} {i : Instr} (h : op &&& i.row.mask = i.row.bits) :
    decodeWord op = some (i.withFields op) := by
  conv_lhs => rw [← encode_withFields h]
  exact decodeWord_encode _

/-- A word that decodes selects the row of the instruction it decodes to. -/
theorem selects_of_decodeWord {op : OpWord} {i : Instr} (h : decodeWord op = some i) :
    op &&& i.row.mask = i.row.bits := by
  rw [← decodedWordEncodesBack op i h]
  exact encode_selects_row i

theorem decodeWord_in_row_iff (op : OpWord) (i : Instr) :
    (∃ j, decodeWord op = some j ∧ j.row = i.row) ↔ op &&& i.row.mask = i.row.bits := by
  constructor
  · rintro ⟨j, hj, hrow⟩
    rw [← hrow]
    exact selects_of_decodeWord hj
  · exact fun h => ⟨_, decodeWord_of_selects h, i.row_withFields op⟩

/-- The instruction with the fields of the word 0 is the one that stands for its row in the opcode map. -/
theorem withFields_zero_mem (i : Instr) : i.withFields 0 ∈ oneOfEachRow := by
  cases i <;> exact of_decide_eq_true rfl

theorem row_mem_opcodeRows (i : Instr) : i.row ∈ opcodeRows :=
  List.mem_map.mpr ⟨i.withFields 0, withFields_zero_mem i, i.row_withFields 0⟩

/-- Settles O3: a word selects a row exactly when it decodes to an instruction of the row, and every instruction's row
is on the map. -/
theorem decodeAgreesWithOpcodeMap : Obligations.DecodeAgreesWithOpcodeMap := by
  refine ⟨fun op i _ => decodeWord_in_row_iff op i, fun op => ⟨fun h i _ hsel => ?_, fun h => ?_⟩⟩
  · rw [decodeWord_of_selects hsel] at h
    cases h
  · rw [Option.eq_none_iff_forall_ne_some]
    intro j hj
    refine h (j.withFields 0) (withFields_zero_mem j) ?_
    rw [j.row_withFields]
    exact selects_of_decodeWord hj

/-- Settles O4: two rows that a word selects are both the row of the one instruction it decodes to. -/
theorem opcodeRowsDisjoint : Obligations.OpcodeRowsDisjoint := by
  refine ⟨rfl, row_mem_opcodeRows, fun op r q hr hq hselr hselq => ?_⟩
  obtain ⟨i, -, rfl⟩ := List.mem_map.mp hr
  obtain ⟨j, -, rfl⟩ := List.mem_map.mp hq
  have hij : i.withFields op = j.withFields op :=
    Option.some.inj ((decodeWord_of_selects hselr).symm.trans (decodeWord_of_selects hselq))
  rw [← i.row_withFields op, hij, j.row_withFields]

/-- Settles O5: each word but the last is the encoding of its instruction, and the last, 5121, has N ≠ 0. -/
theorem wordsOfEachFamilyDecode : Obligations.WordsOfEachFamilyDecode :=
  ⟨decodeWord_encode .cls, decodeWord_encode (.drw 1 2 5), decodeWord_encode (.call 0x210),
   decodeWord_encode (.sub 3 0xD), decodeWord_encode (.storeRegs 3), decodeWord_encode (.sknp 5), by decide⟩

/-! ### The unrecognised space (R58) -/

/-- The sub-operations that group 8 lacks are those it does not list. -/
theorem mem_missing_of_group8 : ∀ n : Nibble, n ∈ [0x8#4, 0x9#4, 0xA#4, 0xB#4, 0xC#4, 0xD#4, 0xF#4] ↔
    n ∉ [0x0#4, 0x1#4, 0x2#4, 0x3#4, 0x4#4, 0x5#4, 0x6#4, 0x7#4, 0xE#4] := by decide

/-- No nibble is left for the last branch of `decodeWord`. -/
theorem mem_all_nibbles : ∀ t : Nibble, t ∈ [0x0#4, 0x1#4, 0x2#4, 0x3#4, 0x4#4, 0x5#4, 0x6#4, 0x7#4,
    0x8#4, 0x9#4, 0xA#4, 0xB#4, 0xC#4, 0xD#4, 0xE#4, 0xF#4] := by decide

section
variable (op : OpWord)

theorem decodeGroup0_eq_none : decodeGroup0 op = none ↔ op ≠ 0x00E0 ∧ op ≠ 0x00EE := by
  unfold decodeGroup0
  split
  next h => simp [h]
  next h => simp [h]

theorem decodeGroup8_eq_none : decodeGroup8 op = none ↔
    op.n ∈ [0x8#4, 0x9#4, 0xA#4, 0xB#4, 0xC#4, 0xD#4, 0xF#4] := by
  rw [mem_missing_of_group8]
  unfold decodeGroup8
  split <;> simp_all

theorem decodeGroupE_eq_none : decodeGroupE op = none ↔ op.nn ∉ [0x9E#8, 0xA1#8] := by
  unfold decodeGroupE
  split <;> simp_all

theorem decodeGroupF_eq_none : decodeGroupF op = none ↔
    op.nn ∉ [0x07#8, 0x0A#8, 0x15#8, 0x18#8, 0x1E#8, 0x29#8, 0x33#8, 0x55#8, 0x65#8] := by
  unfold decodeGroupF
  split <;> simp_all

end

theorem decodeWord_eq_none (op : OpWord) : decodeWord op = none ↔
    (op.top = 0x0 ∧ decodeGroup0 op = none) ∨ (op.top = 0x5 ∧ op.n ≠ 0x0) ∨
    (op.top = 0x8 ∧ decodeGroup8 op = none) ∨ (op.top = 0x9 ∧ op.n ≠ 0x0) ∨
    (op.top = 0xE ∧ decodeGroupE op = none) ∨
    (op.top = 0xF ∧ decodeGroupF op = none) := by
  unfold decodeWord
  split
  case h_17 =>
    have ht := mem_all_nibbles op.top
    simp_all
  all_goals simp [*]

namespace Machine

/-! ### STEP on what the fetched word decodes to (R51) -/

section
variable {s : State}

theorem step_of_decode_some {i : Instr} (hr : s.rs = .ready) (hpc : s.pc.toNat ≤ 0xFFE)
    (hd : decodeWord s.wordAtPc = some i) : step s = exec i s := by
  rw [State.wordAtPc] at hd
  simp [step, hr, State.fetch_ok hpc, hd]

theorem step_of_decode_none (hr : s.rs = .ready) (hpc : s.pc.toNat ≤ 0xFFE) (hd : decodeWord s.wordAtPc = none) :
    step s = .next (s.takeFault .unknownOpcode s.wordAtPc) := by
  rw [State.wordAtPc] at hd
  simp [step, hr, State.fetch_ok hpc, hd, State.wordAtPc]

end

theorem exec_answers (i : Instr) (s : State) : ∃ t, exec i s = .next t := by
  obtain ⟨t, ht⟩ | ⟨kind, hk⟩ := completes_or_raises s i
  · exact ⟨t, ht.exec⟩
  · exact ⟨_, hk.exec⟩

theorem State.takeFault_faultEntry (s : State) (kind : Fault) (op : OpWord) :
    FaultEntry kind op s (s.takeFault kind op) := by
  refine ⟨rfl, rfl, fun p hp => ?_⟩
  cases p with
  | rs | stepResult => simp at hp
  | v | mem => exact fun _ => rfl
  | _ => rfl

/-- Settles O6: within M the fetch reads the word at pc, and STEP executes what it decodes to. -/
theorem stepRunsDecodedInstruction : Obligations.StepRunsDecodedInstruction :=
  fun _ _ => step_of_decode_some

/-- Settles O7: by the run state and, in READY, by the fetch and the decoding; an instruction completes or raises. -/
theorem stepAlwaysAnswers : Obligations.StepAlwaysAnswers := by
  intro s
  cases hr : s.rs with
  | uninit => exact ⟨_, step_uninit hr⟩
  | faulted fr => exact ⟨_, step_faulted hr⟩
  | ready =>
    rcases Nat.lt_or_ge 0xFFE s.pc.toNat with hpc | hpc
    · exact ⟨_, step_fetch_fault hr hpc⟩
    · cases hd : decodeWord s.wordAtPc with
      | none => exact ⟨_, step_of_decode_none hr hpc hd⟩
      | some i =>
        rw [step_of_decode_some hr hpc hd]
        exact exec_answers i s

/-- Settles O9: UNKNOWN is answered in six groups only, each for the sub-operations it lacks, and a READY step that
fetches such a word takes the fault entry. -/
theorem unrecognisedWordsFault : Obligations.UnrecognisedWordsFault := by
  refine ⟨fun op => ?_, fun s hr hpc hd => ⟨_, step_of_decode_none hr hpc hd, s.takeFault_faultEntry _ _⟩⟩
  rw [decodeWord_eq_none, decodeGroup0_eq_none, decodeGroup8_eq_none, decodeGroupE_eq_none, decodeGroupF_eq_none]

end Machine
end Sys2Proof
end

section
/-! PROOF. The display (O23 to O26, spec/40_display.md): a DXYN's drawing in terms of its sprite bits, from the loop
specification of Laws/Display.lean, and the obligations derived from it. -/

namespace Sys2Proof.Machine

theorem Flags.toByte_eq_one (f : Bool) : Flags.toByte f = 1 ↔ f = true := by cases f <;> decide

@[simp] theorem State.spriteRows_length (s : State) (n : Nat) : (s.spriteRows n).length = n := by
  simp [State.spriteRows]

/-- Row `k` of the sprite is the byte at I + k. -/
theorem State.spriteRows_getD (s : State) {n k : Nat} (h : k < n) :
    (s.spriteRows n).getD k 0 = s.peek (s.i.toNat + k) := by
  simp [State.spriteRows, State.indexAddr, List.getD_eq_getElem?_getD, h]

section
variable {s t : State} {x y : Nibble}

/-- A set sprite bit names a cell of the sprite's box (R72) and a bit of the byte of the cell's row (R71). -/
theorem State.spriteBit_eq_true {n q p : Nat} :
    s.spriteBit x y n q p = true ↔
      originY (s.getV y) ≤ q ∧ q < originY (s.getV y) + n ∧ originX (s.getV x) ≤ p ∧ p < originX (s.getV x) + 8 ∧
      ((s.spriteRows n).getD (q - originY (s.getV y)) 0).getLsbD (7 - (p - originX (s.getV x))) = true := by
  simp only [State.spriteBit, originX, originY, Bool.and_eq_true, decide_eq_true_eq, and_assoc]
  refine and_congr_right fun hq => and_congr_right fun hn => ?_
  rw [s.spriteRows_getD (by omega)]

/-- The sprite is read from the two registers, I and M alone. -/
theorem State.spriteBit_congr (hx : t.getV x = s.getV x) (hy : t.getV y = s.getV y) (hi : t.i = s.i)
    (hm : ∀ a, t.peek a = s.peek a) (n q p : Nat) : t.spriteBit x y n q p = s.spriteBit x y n q p := by
  simp [State.spriteBit, hx, hy, hi, hm]

end

section
variable (s : State) (x y n : Nibble)

/-- R71: a draw XORs each cell of the grid with its sprite bit; outside the grid there is no pixel. -/
theorem State.pixel_drawn (q p : Nat) :
    (s.drawn x y n).1.pixel q p =
      (s.fb.pixel q p ^^ (decide (q < 32 ∧ p < 64) && s.spriteBit x y n.toNat q p)) := by
  rw [State.drawn, (plotSprite_spec _ _ _ _ _).1, s.spriteRows_length]
  congr 1
  rw [Bool.eq_iff_iff]
  simp only [Bool.and_eq_true, decide_eq_true_eq, State.spriteBit_eq_true]
  tauto

/-- R71: the collision of a draw is a pixel that was on under a 1 bit of the sprite. -/
theorem State.collision_drawn :
    (s.drawn x y n).2 = true ↔
      ∃ q < 32, ∃ p < 64, s.fb.pixel q p = true ∧ s.spriteBit x y n.toNat q p = true := by
  rw [State.drawn, (plotSprite_spec _ _ _ _ _).2, s.spriteRows_length]
  simp only [State.spriteBit_eq_true]
  constructor
  · rintro (h | ⟨q, p, h1, h2, hq, h3, h4, hp, hbit, hon⟩)
    · cases h
    · exact ⟨q, hq, p, hp, hon, h1, h2, h3, h4, hbit⟩
  · rintro ⟨q, hq, p, hp, hon, h1, h2, h3, h4, hbit⟩
    exact .inr ⟨q, p, h1, h2, hq, h3, h4, hp, hbit, hon⟩

/-- The state a DXYN that does not fault leaves. -/
def State.afterDraw : State := (s.advance.setFb (s.drawn x y n).1).setFlag (s.drawn x y n).2

theorem State.afterDraw_fb : (s.afterDraw x y n).fb = (s.drawn x y n).1 := rfl

theorem State.afterDraw_getV_vF : (s.afterDraw x y n).getV vF = Flags.toByte (s.drawn x y n).2 := by
  simp [State.afterDraw, State.getV_setFlag]

theorem State.afterDraw_getV_of_ne {r : Nibble} (h : r ≠ vF) : (s.afterDraw x y n).getV r = s.getV r := by
  simp [State.afterDraw, State.getV_setFlag, h]

/-- VF after a draw is its collision flag (R71). -/
theorem State.afterDraw_getV_vF_eq_one :
    (s.afterDraw x y n).getV vF = 1 ↔
      ∃ q < 32, ∃ p < 64, s.fb.pixel q p = true ∧ s.spriteBit x y n.toNat q p = true := by
  rw [State.afterDraw_getV_vF, Flags.toByte_eq_one, State.collision_drawn]

theorem State.afterDraw_unchangedBut : UnchangedBut [.v, .fb, .pc, .stepResult] s (s.afterDraw x y n) := by
  intro p hp
  cases p with
  | v | fb | pc | stepResult => simp at hp
  | mem => exact fun _ => rfl
  | _ => rfl

end

/-- Settles O23: CLS puts the blank display on the advanced state. -/
theorem clearDisplay : Obligations.ClearDisplay := by
  refine fun s => ⟨_, exec_cls s, fun y _ x _ => Display.pixel_blank y x, ⟨rfl, rfl⟩, fun p hp => ?_⟩
  cases p with
  | fb | pc | stepResult => simp at hp
  | v | mem => exact fun _ => rfl
  | _ => rfl

/-- Settles O24: the pixels and the collision of the drawing loop, and the fault entry when a byte is outside M. -/
theorem drawSprite : Obligations.DrawSprite := by
  refine fun s x y n => ⟨fun hin => ⟨s.afterDraw x y n, exec_drw_ok x y n hin, ?pixels, ?hit, ?noHit, ?regs,
    ⟨rfl, rfl⟩, s.afterDraw_unchangedBut x y n⟩, fun hout => ⟨_, exec_drw_fault x y n hout, s.takeFault_faultEntry _ _⟩⟩
  case pixels =>
    intro q hq p hp
    simp [State.afterDraw_fb, State.pixel_drawn, hq, hp]
  case hit => exact (s.afterDraw_getV_vF_eq_one x y n).mpr
  case noHit =>
    intro hclear
    have hno : (s.drawn x y n).2 = false := by
      rw [← Bool.not_eq_true, State.collision_drawn]
      rintro ⟨q, hq, p, hp, hon, hbit⟩
      simp [hclear q hq p hp hon] at hbit
    rw [State.afterDraw_getV_vF, hno]
    rfl
  case regs => exact fun r hr => s.afterDraw_getV_of_ne x y n (by simpa using hr)

/-- Settles O25: a changed cell is a cell of the grid with a set sprite bit; a faulting draw changes none. -/
theorem drawRegion : Obligations.DrawRegion := by
  intro s t x y n h q p hne
  obtain hc | ⟨kind, -, rfl⟩ := exec_iff.mp h
  · cases hc
    have hbit : (decide (q < 32 ∧ p < 64) && s.spriteBit x y n.toNat q p) = true := by
      by_contra hb
      exact hne ((s.pixel_drawn x y n q p).trans (by rw [Bool.eq_false_iff.mpr hb, Bool.xor_false]))
    simp only [Bool.and_eq_true, decide_eq_true_eq, State.spriteBit_eq_true, originX, originY] at hbit
    omega
  · exact absurd rfl hne

/-- Settles O26: with X and Y other than F the first draw leaves the sprite as it was, so the second XORs the same bits
(R71, "Draw twice"). -/
theorem drawTwiceRestores : Obligations.DrawTwiceRestores := by
  intro s t x y n hx hy hin h
  obtain rfl : s.afterDraw x y n = t := by simpa [exec_drw_ok x y n hin, State.afterDraw] using h
  have hbit : ∀ q p, (s.afterDraw x y n).spriteBit x y n.toNat q p = s.spriteBit x y n.toNat q p :=
    State.spriteBit_congr (s.afterDraw_getV_of_ne x y n hx) (s.afterDraw_getV_of_ne x y n hy) rfl (fun _ => rfl) _
  refine ⟨(s.afterDraw x y n).afterDraw x y n, exec_drw_ok x y n hin, Display.ext_pixel fun q _ p _ => ?_, ?_⟩
  · rw [State.afterDraw_fb, State.pixel_drawn, hbit, State.afterDraw_fb, State.pixel_drawn, Bool.xor_assoc,
      Bool.xor_self, Bool.xor_false]
  · simp only [State.afterDraw_getV_vF_eq_one, hbit]

end Sys2Proof.Machine
end

section
/-! PROOF. Control flow (O27 to O31, spec/41_control_flow.md): the frame of an instruction that writes pc, or pc and the
stack; the targets of the jumps as numbers; the pc a skip leaves; and the obligations, from the equations of
Laws/Exec.lean. -/

namespace Sys2Proof.Machine

/-! ### Frames -/

/-- The frame of RET and CALL (R80, R82). -/
theorem unchangedBut_pc_stack (s : State) (a : Addr) (stack : List Addr) (r : StepResult) :
    UnchangedBut [.pc, .stack, .stepResult] s { s with pc := a, stack := stack, stepResult := r } := by
  intro p hp
  cases p with
  | pc | stack | stepResult => simp at hp
  | v | mem => exact fun _ => rfl
  | _ => rfl

/-- The frame of the jumps, the skips and the RET that goes on (R80, R81, R83 to R87): that of `unchangedBut_pc_stack`,
with the stack as it was. -/
theorem unchangedBut_pc (s : State) (a : Addr) (r : StepResult) :
    UnchangedBut [.pc, .stepResult] s { s with pc := a, stepResult := r } := by
  intro p hp
  by_cases hs : p = .stack
  · subst hs
    rfl
  · exact unchangedBut_pc_stack s a s.stack r p (by simp_all)

/-! ### Targets of the jumps (R60, R87) -/

theorem addrOfNNN_toNat (nnn : BitVec 12) : (addrOfNNN nnn).toNat = nnn.toNat := by
  rw [addrOfNNN, BitVec.toNat_setWidth_of_le (by decide)]

/-- The sum is at most 0x10FE, so 16 bits hold it. -/
theorem jumpOffset_toNat (nnn : BitVec 12) (b : Byte) : (jumpOffset nnn b).toNat = nnn.toNat + b.toNat := by
  rw [jumpOffset, BitVec.toNat_ofNat, Nat.mod_eq_of_lt (by omega)]

/-! ### The pc a skip leaves (R52) -/

section
variable (s : State) (a b : Byte)

theorem State.advance_skipIf_beq_pc :
    (s.advance.skipIf (a == b)).pc = if a = b then s.pc + 2 + 2 else s.pc + 2 := by
  simp only [State.skipIf_pc, State.advance_pc, beq_iff_eq]

theorem State.advance_skipIf_bne_pc :
    (s.advance.skipIf (a != b)).pc = if a = b then s.pc + 2 else s.pc + 2 + 2 := by
  simp only [State.skipIf_pc, State.advance_pc, bne_iff_ne, ite_not]

end

theorem State.advance_skipIf_unchangedBut (s : State) (c : Bool) :
    UnchangedBut [.pc, .stepResult] s (s.advance.skipIf c) :=
  unchangedBut_pc s _ .ok

/-! ### The obligations -/

/-- Settles O27: the top entry is popped into pc; with no entry the advanced state carries the diagnostic. -/
theorem returnPopsOrGoesOn : Obligations.ReturnPopsOrGoesOn :=
  ⟨fun s a rest h => ⟨_, exec_ret_cons h, rfl, rfl, rfl, unchangedBut_pc_stack s a rest .ok⟩,
    fun s h => ⟨_, exec_ret_nil h, rfl, rfl, unchangedBut_pc s (s.pc + 2) .okEmptyStackReturn⟩⟩

/-- Settles O28: both targets fit in the 16-bit pc. -/
theorem jumpsSetPc : Obligations.JumpsSetPc := fun s nnn =>
  ⟨⟨_, exec_jp nnn s, addrOfNNN_toNat nnn, rfl, unchangedBut_pc s _ .ok⟩,
    ⟨_, exec_jpV0 nnn s, jumpOffset_toNat nnn (s.getV v0), rfl, unchangedBut_pc s _ .ok⟩⟩

/-- Settles O29: the push succeeds below STACK_DEPTH, and at STACK_DEPTH the fault is entered. -/
theorem callPushesReturnAddress : Obligations.CallPushesReturnAddress := fun s nnn =>
  ⟨fun h => ⟨_, exec_call_ok nnn h, rfl, addrOfNNN_toNat nnn, rfl, unchangedBut_pc_stack s _ _ .ok⟩,
    fun h => ⟨_, exec_call_overflow nnn h.ge, s.takeFault_faultEntry _ _⟩⟩

/-- Settles O30: 3XNN skips on `==` and 4XNN on `!=`. -/
theorem skipsOnImmediate : Obligations.SkipsOnImmediate := fun s x nn =>
  ⟨⟨_, exec_seImm x nn s, s.advance_skipIf_beq_pc _ nn, rfl, s.advance_skipIf_unchangedBut _⟩,
    ⟨_, exec_sneImm x nn s, s.advance_skipIf_bne_pc _ nn, rfl, s.advance_skipIf_unchangedBut _⟩⟩

/-- Settles O31: 5XY0 skips on `==` and 9XY0 on `!=`. -/
theorem skipsOnRegisters : Obligations.SkipsOnRegisters := fun s x y =>
  ⟨⟨_, exec_seReg x y s, s.advance_skipIf_beq_pc _ _, rfl, s.advance_skipIf_unchangedBut _⟩,
    ⟨_, exec_sneReg x y s, s.advance_skipIf_bne_pc _ _, rfl, s.advance_skipIf_unchangedBut _⟩⟩

end Sys2Proof.Machine
end

section
/-! PROOF. Registers and arithmetic (O32 to O39, spec/42_alu.md): the frames of an instruction that writes one register
and of one that writes the flag first; the registers those leave; the flags as numbers; and the obligations, from the
equations of Laws/Exec.lean. -/

namespace Sys2Proof.Machine

/-! ### Frames -/

/-- The frame of an instruction that writes registers alone (R8). -/
theorem unchangedBut_v_pc (s : State) (v : Vector Byte 16) (a : Addr) (r : StepResult) :
    UnchangedBut [.v, .pc, .stepResult] s { s with v := v, pc := a, stepResult := r } := by
  intro p hp
  cases p with
  | v | pc | stepResult => simp at hp
  | mem => exact fun _ => rfl
  | _ => rfl

/-- Drawing the next random byte adds the model's own fields for it to what changes (log 3). -/
theorem UnchangedBut.nextRand {parts : List Part} {s t : State} (h : UnchangedBut parts s t) :
    UnchangedBut (parts ++ [.randIn, .draws]) s t.nextRand := by
  intro p hp
  have hsame := h p fun hmem => hp (List.mem_append_left _ hmem)
  cases p with
  | randIn | draws => simp at hp
  | _ => exact hsame

/-- 6XNN, 7XNN, 8XY0 to 8XY3: only V[X] is written, and the step goes on (R100 to R105). -/
theorem State.advance_setV_frame (s : State) (x : Nibble) (b : Byte) :
    RegsUnchangedBut [x] s (s.advance.setV x b) ∧ GoesOn s (s.advance.setV x b) ∧
      UnchangedBut [.v, .pc, .stepResult] s (s.advance.setV x b) :=
  ⟨fun _ hr => s.advance.getV_setV_of_ne b (by simpa using hr), ⟨rfl, rfl⟩, unchangedBut_v_pc s _ _ _⟩

/-! ### VF, then V[X] (R9, R106 to R110) -/

section
variable (s : State) (f : Bool) (x : Nibble) (b : Byte)

@[simp] theorem State.flagged_getV_vF : (s.flagged f).getV vF = Flags.toByte f := s.advance.getV_setV_self vF _

theorem State.flagged_getV_of_ne {r : Nibble} (h : r ≠ vF) : (s.flagged f).getV r = s.getV r :=
  s.advance.getV_setV_of_ne _ h

/-- With X other than F the flag stays in VF. -/
theorem State.flagged_setV_getV_vF (hx : x ≠ vF) : ((s.flagged f).setV x b).getV vF = Flags.toByte f := by
  rw [State.getV_setV_of_ne _ _ hx.symm, State.flagged_getV_vF]

/-- 8XY4 to 8XYE: only V[X] and VF are written, and the step goes on. -/
theorem State.flagged_setV_frame :
    RegsUnchangedBut [x, vF] s ((s.flagged f).setV x b) ∧ GoesOn s ((s.flagged f).setV x b) ∧
      UnchangedBut [.v, .pc, .stepResult] s ((s.flagged f).setV x b) := by
  refine ⟨fun r hr => ?_, ⟨rfl, rfl⟩, unchangedBut_v_pc s _ _ _⟩
  obtain ⟨hx, hF⟩ : r ≠ x ∧ r ≠ vF := by simpa using hr
  rw [State.getV_setV_of_ne _ _ hx, s.flagged_getV_of_ne f hF]

end

section
variable (s : State) (f : Bool) {x y : Nibble} (op : Byte → Byte → Byte)

/-- What 8XY4, 8XY5 and 8XY7 leave: their two lines in order, the flag in VF and then `op` of the two registers in V[X];
an operand register that is VF holds the flag by then. -/
def State.flagThenOp (s : State) (f : Bool) (x y : Nibble) (op : Byte → Byte → Byte) : State :=
  (s.flagged f).setV x (op ((s.flagged f).getV x) ((s.flagged f).getV y))

theorem State.flagThenOp_getV_vF (hx : x ≠ vF) : (s.flagThenOp f x y op).getV vF = Flags.toByte f :=
  s.flagged_setV_getV_vF f x _ hx

theorem State.flagThenOp_getV (hx : x ≠ vF) (hy : y ≠ vF) :
    (s.flagThenOp f x y op).getV x = op (s.getV x) (s.getV y) := by
  rw [State.flagThenOp, State.getV_setV_self, s.flagged_getV_of_ne f hx, s.flagged_getV_of_ne f hy]

/-- X = F: the first operand is the flag. -/
theorem State.flagThenOp_vF_getV (hy : y ≠ vF) :
    (s.flagThenOp f vF y op).getV vF = op (Flags.toByte f) (s.getV y) := by
  rw [State.flagThenOp, State.getV_setV_self, State.flagged_getV_vF, s.flagged_getV_of_ne f hy]

/-- Y = F: the second operand is the flag. -/
theorem State.flagThenOp_getV_of_vF (hx : x ≠ vF) :
    (s.flagThenOp f x vF op).getV x = op (s.getV x) (Flags.toByte f) := by
  rw [State.flagThenOp, State.getV_setV_self, s.flagged_getV_of_ne f hx, State.flagged_getV_vF]

/-- X = Y = F: both operands are the flag. -/
theorem State.flagThenOp_vF_vF_getV :
    (s.flagThenOp f vF vF op).getV vF = op (Flags.toByte f) (Flags.toByte f) := by
  rw [State.flagThenOp, State.getV_setV_self, State.flagged_getV_vF]

/-- X = Y in 8XY5 and 8XY7: V[X] and VF are 0, for X = F as well, since no byte is above itself (R107, R109). -/
theorem State.flagThenOp_noBorrow_self (hop : ∀ a, op a a = 0) :
    let t := s.flagThenOp (Flags.noBorrow (s.getV x) (s.getV x)) x x op
    t.getV vF = 0 ∧ t.getV x = 0 := by
  intro t
  have hzero : t.getV x = 0 := (State.getV_setV_self _ x _).trans (hop _)
  by_cases hx : x = vF
  · exact ⟨hx ▸ hzero, hzero⟩
  · refine ⟨(s.flagThenOp_getV_vF _ op hx).trans ?_, hzero⟩
    rw [Flags.noBorrow, decide_eq_false (Nat.lt_irrefl _)]
    rfl

end

/-! ### The flags and the byte operations as numbers -/

section
variable (a b : Byte)

/-- The carry and the no-borrow, and so the rules' `1 if … else 0`. -/
theorem Flags.toByte_decide_toNat (p : Prop) [Decidable p] : (toByte (decide p)).toNat = if p then 1 else 0 := by
  by_cases h : p <;> simp [toByte, h]

theorem Flags.toByte_toNat (f : Bool) : (toByte f).toNat = f.toNat := by cases f <;> rfl

theorem Flags.toByte_shiftedOutLow_toNat : (toByte (shiftedOutLow a)).toNat = a.toNat % 2 := by
  rw [toByte_toNat, shiftedOutLow, BitVec.getLsbD, Nat.toNat_testBit, pow_zero, Nat.div_one]

theorem Flags.toByte_shiftedOutHigh_toNat : (toByte (shiftedOutHigh a)).toNat = a.toNat / 128 := by
  rw [toByte_toNat, shiftedOutHigh, BitVec.getLsbD, Nat.toNat_testBit]
  omega

/-- A flag has no second bit. -/
theorem Flags.toByte_shiftRight_one (f : Bool) : toByte f >>> 1 = 0 := by cases f <;> rfl

theorem byte_shiftLeft_one_toNat : (a <<< 1).toNat = 2 * a.toNat % 256 := by
  rw [BitVec.toNat_shiftLeft, Nat.shiftLeft_eq, pow_one, Nat.mul_comm]

/-- A byte difference as the rules write it, on naturals (R6). -/
theorem byte_sub_toNat : (a - b).toNat = (a.toNat + 256 - b.toNat) % 256 := by
  rw [BitVec.toNat_sub]
  omega

end

/-! ### The obligations -/

/-- Settles O32: V[X] receives the immediate, or the sum. -/
theorem loadAndAddImmediate : Obligations.LoadAndAddImmediate := fun s x nn =>
  ⟨⟨_, exec_ldImm x nn s, s.advance.getV_setV_self x nn, s.advance_setV_frame x nn⟩,
    ⟨_, exec_addImm x nn s, by rw [State.getV_setV_self, BitVec.toNat_add], s.advance_setV_frame x _⟩⟩

/-- Settles O33: V[X] receives the copy, or the bitwise operation on the two registers. -/
theorem copyAndBitwiseRegisters : Obligations.CopyAndBitwiseRegisters := fun s x y =>
  ⟨⟨_, exec_ldReg x y s, s.advance.getV_setV_self x _, s.advance_setV_frame x _⟩,
    ⟨_, exec_orReg x y s, fun _ _ => by rw [State.getV_setV_self, BitVec.getLsbD_or], s.advance_setV_frame x _⟩,
    ⟨_, exec_andReg x y s, fun _ _ => by rw [State.getV_setV_self, BitVec.getLsbD_and], s.advance_setV_frame x _⟩,
    ⟨_, exec_xorReg x y s, fun _ _ => by rw [State.getV_setV_self, BitVec.getLsbD_xor], s.advance_setV_frame x _⟩⟩

/-- Settles O34: with VF an operand, the sum takes the carry in its place. -/
theorem addRegisters : Obligations.AddRegisters := by
  intro s x y c hc
  have hf : (Flags.toByte (Flags.carry (s.getV x) (s.getV y))).toNat = c :=
    (Flags.toByte_decide_toNat _).trans hc.symm
  refine ⟨s.flagThenOp _ x y (· + ·), exec_addReg x y s, ?neither, ?destination, ?source, ?both,
    s.flagged_setV_frame _ x _⟩
  case neither => exact fun hx hy =>
    ⟨by rw [s.flagThenOp_getV_vF _ _ hx, hf], by rw [s.flagThenOp_getV _ _ hx hy, BitVec.toNat_add]⟩
  case destination =>
    rintro rfl hy
    rw [s.flagThenOp_vF_getV _ _ hy, BitVec.toNat_add, hf]
  case source =>
    rintro hx rfl
    exact ⟨by rw [s.flagThenOp_getV_vF _ _ hx, hf], by rw [s.flagThenOp_getV_of_vF _ _ hx, BitVec.toNat_add, hf]⟩
  case both =>
    rintro rfl rfl
    rw [State.flagThenOp_vF_vF_getV, BitVec.toNat_add, hf]
    split at hc <;> omega

/-- Settles O35: with VF an operand, the difference takes the no-borrow in its place. -/
theorem subtractRegisters : Obligations.SubtractRegisters := by
  intro s x y b hb
  have hf : (Flags.toByte (Flags.noBorrow (s.getV x) (s.getV y))).toNat = b :=
    (Flags.toByte_decide_toNat _).trans hb.symm
  refine ⟨s.flagThenOp _ x y (· - ·), exec_sub x y s, ?neither, ?destination, ?source, ?same,
    s.flagged_setV_frame _ x _⟩
  case neither => exact fun hx hy =>
    ⟨by rw [s.flagThenOp_getV_vF _ _ hx, hf], by rw [s.flagThenOp_getV _ _ hx hy, byte_sub_toNat]⟩
  case destination =>
    rintro rfl hy
    rw [s.flagThenOp_vF_getV _ _ hy, byte_sub_toNat, hf]
  case source =>
    rintro hx rfl
    exact ⟨by rw [s.flagThenOp_getV_vF _ _ hx, hf], by rw [s.flagThenOp_getV_of_vF _ _ hx, byte_sub_toNat, hf]⟩
  case same =>
    rintro rfl
    exact s.flagThenOp_noBorrow_self _ BitVec.sub_self

/-- Settles O37: the difference and the no-borrow of O35 with their operands exchanged. -/
theorem subtractReversed : Obligations.SubtractReversed := by
  intro s x y b hb
  have hf : (Flags.toByte (Flags.noBorrow (s.getV y) (s.getV x))).toNat = b :=
    (Flags.toByte_decide_toNat _).trans hb.symm
  refine ⟨s.flagThenOp _ x y fun vx vy => vy - vx, exec_subn x y s, ?neither, ?destination, ?source, ?same,
    s.flagged_setV_frame _ x _⟩
  case neither => exact fun hx hy =>
    ⟨by rw [s.flagThenOp_getV_vF _ _ hx, hf], by rw [s.flagThenOp_getV _ _ hx hy, byte_sub_toNat]⟩
  case destination =>
    rintro rfl hy
    rw [s.flagThenOp_vF_getV _ _ hy, byte_sub_toNat, hf]
  case source =>
    rintro hx rfl
    exact ⟨by rw [s.flagThenOp_getV_vF _ _ hx, hf], by rw [s.flagThenOp_getV_of_vF _ _ hx, byte_sub_toNat, hf]⟩
  case same =>
    rintro rfl
    exact s.flagThenOp_noBorrow_self _ BitVec.sub_self

/-- Settles O36: with X = F the bit shifted out of V[X] is itself shifted out. -/
theorem shiftRight : Obligations.ShiftRight := by
  refine fun s x y => ⟨_, exec_shr x y s, fun hx => ?_, ?_, s.flagged_setV_frame _ x _⟩
  · rw [s.flagged_setV_getV_vF _ x _ hx, State.getV_setV_self, s.flagged_getV_of_ne _ hx]
    exact ⟨Flags.toByte_shiftedOutLow_toNat _, by rw [BitVec.toNat_ushiftRight, Nat.shiftRight_one]⟩
  · rintro rfl
    rw [State.getV_setV_self, State.flagged_getV_vF, Flags.toByte_shiftRight_one]

/-- Settles O38: with X = F it is the bit shifted out that is doubled. -/
theorem shiftLeft : Obligations.ShiftLeft := by
  refine fun s x y => ⟨_, exec_shl x y s, fun hx => ?_, ?_, s.flagged_setV_frame _ x _⟩
  · rw [s.flagged_setV_getV_vF _ x _ hx, State.getV_setV_self, s.flagged_getV_of_ne _ hx]
    exact ⟨Flags.toByte_shiftedOutHigh_toNat _, byte_shiftLeft_one_toNat _⟩
  · rintro rfl
    rw [State.getV_setV_self, State.flagged_getV_vF, byte_shiftLeft_one_toNat, Flags.toByte_shiftedOutHigh_toNat]
    omega

/-- Settles O39: V[X] receives the byte on the port under the mask, and then the next byte is drawn. -/
theorem randomUnderMask : Obligations.RandomUnderMask := by
  intro s x nn
  obtain ⟨hregs, hgoes, hrest⟩ := s.advance_setV_frame x (s.randIn &&& nn)
  refine ⟨_, exec_rnd x nn s, fun _ _ => ?_, hregs, hgoes, hrest.nextRand⟩
  rw [State.nextRand_getV, State.getV_setV_self, BitVec.getLsbD_and]

end Sys2Proof.Machine
end

section
/-! PROOF. The index register and memory (O40 to O44, spec/43_index_memory.md): the frames of an instruction that writes
I and of one that writes M; the index as a number; the bytes a store leaves and a load reads; and the obligations, from
the equations of Laws/Exec.lean. -/

namespace Sys2Proof.Machine

/-! ### Frames -/

/-- The frame of FX1E (R131). -/
theorem unchangedBut_v_i_pc (s : State) (v : Vector Byte 16) (i a : Addr) (r : StepResult) :
    UnchangedBut [.v, .i, .pc, .stepResult] s { s with v := v, i := i, pc := a, stepResult := r } := by
  intro p hp
  cases p with
  | v | i | pc | stepResult => simp at hp
  | mem => exact fun _ => rfl
  | _ => rfl

/-- The frame of ANNN and FX29 (R130, R132): that of `unchangedBut_v_i_pc`, with the registers as they were. -/
theorem State.advance_setI_unchangedBut (s : State) (i : Addr) :
    UnchangedBut [.i, .pc, .stepResult] s (s.advance.setI i) := by
  intro p hp
  by_cases hv : p = .v
  · subst hv
    exact fun _ => rfl
  · exact unchangedBut_v_i_pc s s.v i _ .ok p (by simp_all)

/-- The frame of FX33 and FX55 (R133, R134). -/
theorem State.advance_pokes_unchangedBut (s : State) (a : Nat) (bs : List Byte) :
    UnchangedBut [.mem, .pc, .stepResult] s (s.advance.pokes a bs) := by
  rw [State.pokes_eq]
  intro p hp
  cases p with
  | mem | pc | stepResult => simp at hp
  | v => exact fun _ => rfl
  | _ => rfl

/-- The frame of FX65 (R135). -/
theorem State.advance_setVsFrom_unchangedBut (s : State) (k : Nat) (bs : List Byte) :
    UnchangedBut [.v, .pc, .stepResult] s (s.advance.setVsFrom k bs) := by
  rw [State.setVsFrom_eq]
  exact unchangedBut_v_pc s _ _ _

theorem State.advance_pokes_goesOn (s : State) (a : Nat) (bs : List Byte) : GoesOn s (s.advance.pokes a bs) :=
  ⟨State.pokes_pc _ a bs, State.pokes_stepResult _ a bs⟩

theorem State.advance_setVsFrom_goesOn (s : State) (k : Nat) (bs : List Byte) :
    GoesOn s (s.advance.setVsFrom k bs) :=
  ⟨State.setVsFrom_pc _ k bs, State.setVsFrom_stepResult _ k bs⟩

/-! ### The index as a number (R131, R132) -/

theorem addIndex_toNat (i : Addr) (b : Byte) : (addIndex i b).toNat = (i.toNat + b.toNat) % 4096 := by
  rw [addIndex, BitVec.toNat_ofNat, Nat.mod_eq_of_lt (by omega)]

/-- The product is at most 1275, so 16 bits hold it. -/
theorem glyphAddr_toNat (b : Byte) : (glyphAddr b).toNat = b.toNat * 5 := by
  rw [glyphAddr, BitVec.toNat_ofNat, Nat.mod_eq_of_lt (by omega)]

/-! ### The bytes a store leaves and a load reads (R133 to R135) -/

section
variable (s : State) (a : Nat) (bs : List Byte)

theorem State.peek_pokes_add (k : Nat) : (s.pokes a bs).peek (a + k) = bs.getD k (s.peek (a + k)) := by
  rw [State.peek_pokes, if_pos (Nat.le_add_right a k), Nat.add_sub_cancel_left]

/-- A written byte that is given as a number. -/
theorem State.peek_pokes_add_toNat (k : Nat) {n : Nat} (hk : bs[k]? = some (BitVec.ofNat 8 n)) (hn : n < 256) :
    ((s.pokes a bs).peek (a + k)).toNat = n := by
  rw [State.peek_pokes_add, List.getD_eq_getElem?_getD, hk, Option.getD_some, BitVec.toNat_ofNat, Nat.mod_eq_of_lt hn]

theorem State.peek_pokes_of_outside {q : Nat} (h : q < a ∨ a + bs.length ≤ q) :
    (s.pokes a bs).peek q = s.peek q := by
  rw [State.peek_pokes]
  split
  · exact List.getD_eq_default _ _ (by omega)
  · rfl

end

/-- The bytes FX65 reads are the sprite bytes of DXYN, here with any default. -/
theorem State.spriteRows_getD_eq_ite (s : State) (n k : Nat) (d : Byte) :
    (s.spriteRows n).getD k d = if k < n then s.peek (s.indexAddr + k) else d := by
  by_cases h : k < n <;> simp [State.spriteRows, List.getD_eq_getElem?_getD, h]

/-! ### The obligations -/

/-- Settles O41: the index receives the sum with V[X], or for X = F with the overflow that stands in VF by then. -/
theorem addToIndex : Obligations.AddToIndex := by
  intro s x c hc
  have hf : (Flags.toByte (Flags.indexOverflow s.i (s.getV x))).toNat = c :=
    (Flags.toByte_decide_toNat _).trans hc.symm
  refine ⟨_, exec_addI x s, ?flag, ?other, ?isVF, ?regs, ⟨rfl, rfl⟩, unchangedBut_v_i_pc s _ _ _ _⟩
  case flag => rw [State.setI_getV, State.flagged_getV_vF, hf]
  case other =>
    intro hx
    rw [State.setI_i, addIndex_toNat, s.flagged_getV_of_ne _ hx]
  case isVF =>
    rintro rfl
    rw [State.setI_i, addIndex_toNat, State.flagged_getV_vF, hf]
  case regs => exact fun r hr => s.flagged_getV_of_ne _ (by simpa using hr)

/-- Settles O42: the three digits are written from I up, or the fault is entered. -/
theorem storeDecimalDigits : Obligations.StoreDecimalDigits := by
  refine fun s x => ⟨fun h => ⟨_, exec_ldB_ok x h, ?hundreds, ?tens, ?ones, fun a ha => ?outside,
    s.advance_pokes_goesOn _ _, s.advance_pokes_unchangedBut _ _⟩,
    fun h => ⟨_, exec_ldB_fault x h, s.takeFault_faultEntry _ _⟩⟩
  case hundreds => exact State.peek_pokes_add_toNat _ _ _ 0 rfl (by omega)
  case tens => exact State.peek_pokes_add_toNat _ _ _ 1 rfl (by omega)
  case ones => exact State.peek_pokes_add_toNat _ _ _ 2 rfl (by omega)
  case outside => exact State.peek_pokes_of_outside _ _ _ (by rw [bcdDigits_length]; omega)

/-- Settles O43: byte k that is written is V[k], or the fault is entered. -/
theorem storeRegisters : Obligations.StoreRegisters := by
  refine fun s x => ⟨fun h => ⟨_, exec_storeRegs_ok x h, fun r hr => ?stored, fun a ha => ?outside,
    s.advance_pokes_goesOn _ _, s.advance_pokes_unchangedBut _ _⟩,
    fun h => ⟨_, exec_storeRegs_fault x h, s.takeFault_faultEntry _ _⟩⟩
  case stored => rw [State.peek_pokes_add, State.regsUpTo_getD, if_pos hr]
  case outside => exact State.peek_pokes_of_outside _ _ _ (by rw [State.regsUpTo_length]; omega)

/-- Settles O44: V[r] receives the byte at I + r for r up to X, or the fault is entered. -/
theorem loadRegisters : Obligations.LoadRegisters := by
  refine fun s x => ⟨fun h => ⟨_, exec_loadRegs_ok x h, fun r => ?loaded,
    s.advance_setVsFrom_goesOn _ _, s.advance_setVsFrom_unchangedBut _ _⟩,
    fun h => ⟨_, exec_loadRegs_fault x h, s.takeFault_faultEntry _ _⟩⟩
  case loaded =>
    rw [State.getV_setVsFrom, if_pos (Nat.zero_le _), Nat.sub_zero, State.spriteRows_getD_eq_ite]
    simp only [Nat.lt_succ_iff, State.advance_getV]

/-- Settles O40: both values fit in the 16-bit index. -/
theorem loadIndex : Obligations.LoadIndex :=
  ⟨fun s nnn => ⟨_, exec_ldI nnn s, addrOfNNN_toNat nnn, ⟨rfl, rfl⟩, s.advance_setI_unchangedBut _⟩,
    fun s x => ⟨_, exec_ldF x s, glyphAddr_toNat (s.getV x), ⟨rfl, rfl⟩, s.advance_setI_unchangedBut _⟩⟩

end Sys2Proof.Machine
end

section
/-! PROOF. Keys and timers (O45 to O48, spec/44_keys_timers.md): the frames of the instruction that waits and of those
that write one timer; the lowest pressed key; the pc a skip on a key leaves; and the obligations, from the equations of
Laws/Exec.lean. -/

namespace Sys2Proof.Machine

/-! ### Frames -/

theorem SamePart.trans {s t u : State} {p : Part} (hst : SamePart s t p) (htu : SamePart t u p) : SamePart s u p := by
  cases p with
  | v | mem => exact fun a => (htu a).trans (hst a)
  | _ => exact Eq.trans htu hst

/-- Two writes one after the other change at most what each of them changes. -/
theorem UnchangedBut.trans {ps qs : List Part} {s t u : State} (hst : UnchangedBut ps s t)
    (htu : UnchangedBut qs t u) : UnchangedBut (qs ++ ps) s u := fun p hp =>
  (hst p fun hmem => hp (List.mem_append_right _ hmem)).trans (htu p fun hmem => hp (List.mem_append_left _ hmem))

theorem State.advance_unchangedBut (s : State) : UnchangedBut [.pc, .stepResult] s s.advance :=
  unchangedBut_pc s _ .ok

theorem State.setDt_unchangedBut (s : State) (b : Byte) : UnchangedBut [.dt] s (s.setDt b) := by
  intro p hp
  cases p with
  | dt => simp at hp
  | v | mem => exact fun _ => rfl
  | _ => rfl

/-! ### The wait (R153, R190) -/

/-- Going back by 2 undoes the advance of R52, so pc stays at the instruction. -/
theorem State.advance_setPc_back_pc (s : State) : (s.advance.setPc (s.pc + 2 - 2)).pc = s.pc :=
  BitVec.add_sub_cancel s.pc 2

/-- A step that waits leaves everything but its result as it was. -/
theorem State.advance_setPc_back_unchangedBut (s : State) :
    UnchangedBut [.stepResult] s (s.advance.setPc (s.pc + 2 - 2)) := by
  intro p hp
  by_cases hpc : p = .pc
  · subst hpc
    exact s.advance_setPc_back_pc
  · exact unchangedBut_pc s _ .ok p (by simp_all)

/-! ### The lowest pressed key (R153) -/

theorem State.lowestKey_eq_some {s : State} {k : Nat} :
    s.lowestKey = some k ↔ k < 16 ∧ s.key k = true ∧ ∀ j < k, s.key j = false := by
  rw [State.lowestKey, List.find?_range_eq_some, List.mem_range]
  simp only [Bool.not_eq_true', and_left_comm]

theorem State.lowestKey_eq_none {s : State} : s.lowestKey = none ↔ ∀ k < 16, s.key k = false := by
  rw [State.lowestKey, List.find?_range_eq_none]
  simp only [Bool.not_eq_true']

/-! ### The pc a skip on a key leaves (R52, R150, R151) -/

section
variable (s : State) (k : Nat)

theorem State.advance_skipIf_key_pc :
    (s.advance.skipIf (s.key k)).pc = if s.keys.getLsbD k = true then s.pc + 2 + 2 else s.pc + 2 := by
  rw [State.skipIf_pc, State.advance_pc, State.key]

theorem State.advance_skipIf_not_key_pc :
    (s.advance.skipIf (!s.key k)).pc = if s.keys.getLsbD k = true then s.pc + 2 else s.pc + 2 + 2 := by
  rw [State.skipIf_pc, State.advance_pc, State.key]
  cases s.keys.getLsbD k <;> rfl

end

/-! ### The port sound_on (R183) -/

theorem State.soundOn_eq_true {s : State} : s.soundOn = true ↔ s.st.toNat > 0 := by
  rw [State.soundOn, bne_iff_ne, gt_iff_lt, Nat.pos_iff_ne_zero]
  exact BitVec.toNat_ne_iff_ne.symm

/-! ### The obligations -/

/-- Settles O47: the search finds the lowest pressed key, or none and the instruction goes back to itself. -/
theorem waitForKey : Obligations.WaitForKey := by
  refine fun s x => ⟨fun k hk hdown hlower => ?pressed, fun hup => ?wait⟩
  case pressed =>
    refine ⟨_, exec_ldVxK_some x (State.lowestKey_eq_some.mpr ⟨hk, hdown, hlower⟩), ?_, s.advance_setV_frame x _⟩
    rw [State.getV_setV_self, BitVec.toNat_ofNat, Nat.mod_eq_of_lt (by omega)]
  case wait =>
    exact ⟨_, exec_ldVxK_none x (State.lowestKey_eq_none.mpr hup), s.advance_setPc_back_pc, rfl,
      s.advance_setPc_back_unchangedBut⟩

/-- Settles O45: EX9E skips on the key and EXA1 on its negation; above 15 both enter the fault. -/
theorem skipsOnKey : Obligations.SkipsOnKey := fun s x =>
  ⟨fun h => ⟨⟨_, exec_skp_ok x h, s.advance_skipIf_key_pc _, rfl, s.advance_skipIf_unchangedBut _⟩,
      ⟨_, exec_sknp_ok x h, s.advance_skipIf_not_key_pc _, rfl, s.advance_skipIf_unchangedBut _⟩⟩,
    fun h => ⟨⟨_, exec_skp_fault x h, s.takeFault_faultEntry _ _⟩,
      ⟨_, exec_sknp_fault x h, s.takeFault_faultEntry _ _⟩⟩⟩

/-- Settles O46: FX07 writes V[X] alone. -/
theorem readDelayTimer : Obligations.ReadDelayTimer := fun s x =>
  ⟨_, exec_ldVxDt x s, s.advance.getV_setV_self x s.dt, s.advance_setV_frame x s.dt⟩

/-- Settles O48: each timer is written on the advanced state, and sound_on reads the ST just written. -/
theorem setTimers : Obligations.SetTimers := fun s x =>
  ⟨⟨_, exec_ldDtVx x s, rfl, ⟨rfl, rfl⟩, s.advance_unchangedBut.trans (s.advance.setDt_unchangedBut _)⟩,
    ⟨_, exec_ldStVx x s, rfl, State.soundOn_eq_true, ⟨rfl, rfl⟩,
      s.advance_unchangedBut.trans (unchangedBut_st s.advance _)⟩⟩

end Sys2Proof.Machine
end

section
/-! PROOF. Exceptions and the host's operations (O10 to O13, O16, O49, O50 and O56, spec/60_exceptions.md): the frames of
SET_KEYS, TICK and a step that changes its result alone; the inversions of a STEP that faults, of a STEP outside READY
and of a host operation; the invariant along a run; and the obligations. -/

namespace Sys2Proof.Machine

/-! ### Frames -/

theorem UnchangedBut.mono {ps qs : List Part} {s t : State} (h : UnchangedBut ps s t) (hsub : ps ⊆ qs) :
    UnchangedBut qs s t := fun p hp => h p fun hmem => hp (hsub hmem)

/-- A listed part that did not change may be taken off the list. -/
theorem UnchangedBut.of_cons {ps : List Part} {q : Part} {s t : State} (h : UnchangedBut (q :: ps) s t)
    (hq : SamePart s t q) : UnchangedBut ps s t := by
  intro p hp
  by_cases hpq : p = q
  · subst hpq
    exact hq
  · exact h p (by simp [hpq, hp])

/-- The frame of a STEP that is refused or repeats its fault (R173, R191). -/
theorem unchangedBut_stepResult (s : State) (r : StepResult) :
    UnchangedBut [.stepResult] s { s with stepResult := r } := (unchangedBut_pc s s.pc r).of_cons rfl

/-- The frame of TICK (R180). -/
theorem unchangedBut_dt_st (s : State) (d q : Byte) : UnchangedBut [.dt, .st] s { s with dt := d, st := q } :=
  (unchangedBut_st s q).trans (State.setDt_unchangedBut _ d)

theorem State.setKeys_unchangedBut (s : State) (k : BitVec 16) : UnchangedBut [.keys] s (s.setKeys k) := by
  intro p hp
  cases p with
  | keys => simp at hp
  | v | mem => exact fun _ => rfl
  | _ => rfl

/-! ### TICK (R180) -/

theorem countDown_toNat (b : Byte) : (countDown b).toNat = b.toNat - 1 := by
  unfold countDown
  split <;> bv_omega

section
variable {s : State}

theorem State.tick_of_uninit (h : s.rs = .uninit) : s.tick = (.refusedNotInitialized, s) := by simp [State.tick, h]

theorem State.tick_of_ne_uninit (h : s.rs ≠ .uninit) :
    s.tick = (.ok, { s with dt := countDown s.dt, st := countDown s.st }) := by
  unfold State.tick
  split
  · exact absurd ‹_› h
  · rfl

end

/-! ### Inversions -/

section
variable {s t : State}

/-- A READY step ends FAULTED in one of two ways: the fetch raised, or the fetched word is recorded with what the
decoding or the execution raised. -/
theorem step_ready_faulted_cases {fr : FaultRecord} (hr : s.rs = .ready) (h : step s = .next t)
    (hf : t.rs = .faulted fr) :
    (s.pc.toNat > 0xFFE ∧ t = s.takeFetchFault .addressOutOfRange) ∨ ∃ kind, t = s.takeFault kind s.wordAtPc := by
  obtain hfetch | ⟨-, -, ht⟩ | ⟨-, i, hd, hx⟩ := step_ready_cases hr h
  · exact .inl hfetch
  · exact .inr ⟨_, ht⟩
  · obtain hc | ⟨kind, -, ht⟩ := exec_iff.mp hx
    · rw [hc.rs_eq, hr] at hf
      cases hf
    · rw [decodedWordEncodesBack _ _ hd] at ht
      exact .inr ⟨kind, ht⟩

/-- Outside READY a STEP writes its result alone (R173, R191). -/
theorem step_of_ne_ready (hs : s.rs ≠ .ready) (h : step s = .next t) : ∃ r, t = { s with stepResult := r } := by
  cases hr : s.rs with
  | ready => exact absurd hr hs
  | uninit =>
    rw [step_uninit hr] at h
    cases h
    rw [← hr]
    exact ⟨_, rfl⟩
  | faulted fr =>
    rw [step_faulted hr] at h
    cases h
    rw [← hr]
    exact ⟨_, rfl⟩

/-- Everything a host operation can do: a STEP; writes to the timers and keys alone (TICK, SET_KEYS and the operations
that are refused); a SOFT_RESET; or a HARD_RESET whose ROM fits. -/
theorem apply_cases {op : HostOp} (h : s.apply op = .next t) :
    (∃ rand, op = .step rand ∧ step { s with randIn := rand } = .next t) ∨
    (∃ d q k, t = { s with dt := d, st := q, keys := k }) ∨
    (op = .softReset ∧ t = s.softReset) ∨
    ∃ rom, op = .hardReset rom ∧ rom.length ≤ maxRom ∧
      t = ({ s with mem := romCells s.cfg.font programBase rom } : State).softReset := by
  cases op with
  | step rand => exact .inl ⟨rand, rfl, h⟩
  | tick =>
    cases h
    by_cases hr : s.rs = .uninit
    · rw [State.tick_of_uninit hr]
      exact .inr (.inl ⟨s.dt, s.st, s.keys, rfl⟩)
    · rw [State.tick_of_ne_uninit hr]
      exact .inr (.inl ⟨_, _, s.keys, rfl⟩)
  | setKeys k =>
    cases h
    exact .inr (.inl ⟨s.dt, s.st, k, rfl⟩)
  | softReset =>
    cases h
    exact .inr (.inr (.inl ⟨rfl, rfl⟩))
  | hardReset rom =>
    cases h
    rcases le_or_gt rom.length maxRom with hfits | hlong
    · rw [State.hardReset_of_fits s hfits]
      exact .inr (.inr (.inr ⟨rom, rfl, hfits, rfl⟩))
    · rw [State.hardReset_of_too_long s hlong]
      exact .inr (.inl ⟨s.dt, s.st, s.keys, rfl⟩)

/-- Outside READY, the operations that change RS are the resets, and they make it READY. -/
theorem reset_of_apply_rs_ne {op : HostOp} (hs : s.rs ≠ .ready) (h : s.apply op = .next t) (hne : t.rs ≠ s.rs) :
    t.rs = .ready ∧ (op = .softReset ∨ ∃ rom, op = .hardReset rom ∧ rom.length ≤ maxRom) := by
  obtain ⟨rand, -, hstep⟩ | ⟨d, q, k, rfl⟩ | ⟨hop, rfl⟩ | ⟨rom, hop, hfits, rfl⟩ := apply_cases h
  · obtain ⟨r, rfl⟩ := step_of_ne_ready (s := { s with randIn := rand }) hs hstep
    exact absurd rfl hne
  · exact absurd rfl hne
  · exact ⟨rfl, .inl hop⟩
  · exact ⟨rfl, .inr ⟨rom, hop, hfits⟩⟩

end

/-! ### Runs (R186, R187) -/

theorem apply_answers (s : State) (op : HostOp) : ∃ t, s.apply op = .next t := by
  cases op with
  | step rand => exact stepAlwaysAnswers _
  | _ => exact ⟨_, rfl⟩

theorem State.runOps_cons {s t : State} {op : HostOp} (h : s.apply op = .next t) (ops : List HostOp) :
    s.runOps (op :: ops) = t.runOps ops := by simp [State.runOps, h]

/-- What every host operation keeps, every run keeps; and a run ends. -/
theorem runOps_keeps {P : State → Prop} (hP : ∀ s op t, P s → s.apply op = .next t → P t) (ops : List HostOp)
    {s : State} (hs : P s) : ∃ t, s.runOps ops = .next t ∧ P t := by
  induction ops generalizing s with
  | nil => exact ⟨s, rfl, hs⟩
  | cons op ops ih =>
    obtain ⟨u, hu⟩ := apply_answers s op
    rw [State.runOps_cons hu]
    exact ih (hP s op u hs hu)

/-- A reset clears all that the invariant speaks of but M. -/
theorem State.softReset_inv {s : State} (hm : s.mem.wf s.cfg.font = true) : s.softReset.Inv where
  memory := hm
  index := fun _ => Nat.zero_le _
  counter := fun _ => by simp
  depth := fun _ => Nat.zero_le _
  returns := fun _ => List.forall_mem_nil _

theorem romCells_wf (font : Vector Byte 80) {rom : List Byte} (h : rom.length ≤ maxRom) :
    (romCells font programBase rom).wf font = true :=
  Memory.wfFrom_mono (Nat.zero_le _) (romCells_wfFrom font rom programBase (Nat.add_le_add_left h programBase))

theorem apply_keeps_inv (s : State) (op : HostOp) (t : State) (hs : s.Inv) (h : s.apply op = .next t) : t.Inv := by
  obtain ⟨rand, -, hstep⟩ | ⟨d, q, k, rfl⟩ | ⟨-, rfl⟩ | ⟨rom, -, hfits, rfl⟩ := apply_cases h
  · exact stepKeepsInvariant { s with randIn := rand } _ (hs.congr rfl rfl rfl rfl rfl id) hstep
  · exact hs.congr rfl rfl rfl rfl rfl id
  · exact State.softReset_inv hs.memory
  · exact State.softReset_inv (romCells_wf _ hfits)

/-- Settles O16: by induction on the operations; each of them answers and keeps the invariant. -/
theorem hostRunKeepsInvariant : Obligations.HostRunKeepsInvariant :=
  fun ops _ hs => runOps_keeps apply_keeps_inv ops hs

/-! ### Faults (R172 to R174) -/

/-- Settles O10: both ways a READY step ends FAULTED are fault entries on the state before the step. -/
theorem faultingStepIsPrecise : Obligations.FaultingStepIsPrecise := by
  intro s t fr hr h hf
  obtain ⟨hpc, rfl⟩ | ⟨kind, rfl⟩ := step_ready_faulted_cases hr h hf
  · cases hf
    exact ⟨rfl, rfl, s.takeFetchFault_unchangedBut _, fun hle => absurd hle (Nat.not_le.mpr hpc)⟩
  · cases hf
    obtain ⟨-, hresult, hsame⟩ := s.takeFault_faultEntry kind s.wordAtPc
    exact ⟨rfl, hresult, hsame.mono (by simp), fun _ => ⟨rfl, rfl⟩⟩

/-- Settles O11: a completed instruction keeps RS, so the fault is one that the instruction raises. -/
theorem instructionFaultKinds : Obligations.InstructionFaultKinds := by
  intro i s t fr hr h hf
  obtain hc | ⟨kind, hk, rfl⟩ := exec_iff.mp h
  · rw [hc.rs_eq, hr] at hf
    cases hf
  · cases hf
    cases hk with
    | call nnn => exact .inl ⟨rfl, nnn, rfl⟩
    | skp x | sknp x => exact .inr (.inl ⟨rfl, x, by simp⟩)
    | drw x y n => exact .inr (.inr ⟨rfl, .inl ⟨x, y, n, rfl⟩⟩)
    | ldB x | storeRegs x | loadRegs x => exact .inr (.inr ⟨rfl, .inr ⟨x, by simp⟩⟩)

/-- A step keeps that the fault record names pc: it faults at its own pc (R172), or RS and pc stay as they were. -/
theorem step_keeps_fr_addr {s t : State} (hs : ∀ fr, s.rs = .faulted fr → fr.addr = s.pc) (h : step s = .next t) :
    ∀ fr, t.rs = .faulted fr → fr.addr = t.pc := by
  intro fr hf
  by_cases hr : s.rs = .ready
  · obtain ⟨haddr, -, hsame, -⟩ := faultingStepIsPrecise s t fr hr h hf
    have hpc : t.pc = s.pc := hsame .pc (by simp)
    rw [haddr, hpc]
  · obtain ⟨r, rfl⟩ := step_of_ne_ready hr h
    exact hs fr hf

/-- Settles O56: every host operation but the steps leaves RS and pc as they were or makes RS READY. -/
theorem faultRecordNamesPc : Obligations.FaultRecordNamesPc := by
  refine fun s hs => ⟨fun t h => step_keeps_fr_addr hs h, fun op t h fr hf => ?_⟩
  obtain ⟨rand, -, hstep⟩ | ⟨d, q, k, rfl⟩ | ⟨-, rfl⟩ | ⟨rom, -, -, rfl⟩ := apply_cases h
  · exact step_keeps_fr_addr (s := { s with randIn := rand }) hs hstep fr hf
  · exact hs fr hf
  · cases hf
  · cases hf

/-- Settles O12: a STEP while FAULTED repeats the fault, TICK asks only whether RS is UNINIT, SET_KEYS does not read
RS, and what changes RS outside READY is a reset. -/
theorem faultedIsSticky : Obligations.FaultedIsSticky := by
  intro s fr hf
  have hready : s.rs ≠ .ready := by simp [hf]
  have huninit : s.rs ≠ .uninit := by simp [hf]
  refine ⟨⟨_, step_faulted hf, rfl, unchangedBut_stepResult s _⟩, ?_, fun _ _ => reset_of_apply_rs_ne hready⟩
  rintro r rfl
  refine ⟨?_, fun k => rfl, rfl, rfl, hf⟩
  rw [State.tick_of_ne_uninit huninit, State.tick_of_ne_uninit (by simp)]

/-! ### UNINIT, TICK and SET_KEYS (R180, R181, R191) -/

/-- Settles O50: K is replaced as a whole. -/
theorem setKeysReplacesAll : Obligations.SetKeysReplacesAll :=
  fun s k => ⟨fun _ _ => rfl, s.setKeys_unchangedBut k⟩

theorem State.softReset_key (s : State) (b : Nat) : s.softReset.key b = false := by simp [State.key]

/-- Settles O13: STEP and TICK are refused, both resets clear K, and what changes RS outside READY is a reset. -/
theorem uninitRefusesStepAndTick : Obligations.UninitRefusesStepAndTick := by
  intro s hu
  refine ⟨⟨_, step_uninit hu, rfl, unchangedBut_stepResult s _⟩, State.tick_of_uninit hu, setKeysReplacesAll s,
    fun b _ => s.softReset_key b, fun rom hrom b _ => ?cleared, fun op t h hne => ?leaves⟩
  case cleared =>
    rw [State.hardReset_of_fits s hrom]
    exact State.softReset_key _ b
  case leaves =>
    obtain ⟨-, hop | ⟨rom, hop, -⟩⟩ := reset_of_apply_rs_ne (by simp [hu]) h (by rwa [hu])
    · exact .inl hop
    · exact .inr ⟨rom, hop⟩

/-- Settles O49: a refused TICK changes nothing, any other takes 1 from each timer with floor 0. -/
theorem tickCountsDown : Obligations.TickCountsDown := by
  refine fun s => ⟨State.tick_of_uninit, fun hr => ?_⟩
  have hd := countDown_toNat s.dt
  have hq := countDown_toNat s.st
  rw [State.tick_of_ne_uninit hr]
  dsimp only
  exact ⟨rfl, by omega, by omega, by omega, by omega, unchangedBut_dt_st s _ _⟩

end Sys2Proof.Machine
end

section
/-! PROOF. The resets (O14 and O51 to O55, spec/70_reset_and_hazards.md): what SOFT_RESET clears, the byte at each
address of M after an accepted HARD_RESET, the frame of its load, and the obligations. -/

namespace Sys2Proof.Machine

/-! ### What the resets leave -/

@[simp] theorem State.softReset_getV (s : State) (r : Nibble) : s.softReset.getV r = 0 := by simp [State.getV]

theorem resetImage_of_lt (font : Vector Byte 80) {a : Nat} (h : a < 80) : resetImage font a = font[a] := dif_pos h

theorem resetImage_of_le (font : Vector Byte 80) {a : Nat} (h : 80 ≤ a) : resetImage font a = 0 :=
  dif_neg (Nat.not_lt.mpr h)

/-- The frame of the load of HARD_RESET (R202). -/
theorem unchangedBut_mem (s : State) (m : Memory) : UnchangedBut [.mem] s { s with mem := m } := by
  intro p hp
  cases p with
  | mem => simp at hp
  | v => exact fun _ => rfl
  | _ => rfl

section
variable (s : State) {rom : List Byte} (hfits : rom.length ≤ maxRom)
include hfits

theorem State.hardReset_unchangedBut : UnchangedBut [.mem] s.softReset (s.hardReset rom).2 := by
  rw [State.hardReset_of_fits s hfits]
  exact unchangedBut_mem s.softReset _

/-- M after an accepted HARD_RESET is what the loaded ROM reads as (R202). -/
theorem State.hardReset_peek (a : Nat) :
    (s.hardReset rom).2.peek a = (romCells s.cfg.font programBase rom).read s.cfg.font a := by
  rw [State.hardReset_of_fits s hfits]
  rfl

theorem State.hardReset_peek_below {a : Nat} (h : a < programBase) :
    (s.hardReset rom).2.peek a = resetImage s.cfg.font a := by
  rw [State.hardReset_peek s hfits, romCells_read, if_neg (Nat.not_le.mpr h)]

theorem State.hardReset_peek_at (j : Nat) :
    (s.hardReset rom).2.peek (programBase + j) = rom.getD j 0 := by
  have himage : resetImage s.cfg.font (programBase + j) = 0 :=
    resetImage_of_le _ ((by decide : 80 ≤ programBase).trans (Nat.le_add_right _ j))
  rw [State.hardReset_peek s hfits, romCells_read, if_pos (Nat.le_add_right _ j), Nat.add_sub_cancel_left, himage]

end

/-! ### The obligations -/

/-- Settles O52: below 0x200 M is the reset image, FONT and then zeros; from 0x200 up it is the ROM, and zero past the
ROM's end. -/
theorem hardResetLoadsRom : Obligations.HardResetLoadsRom := by
  refine fun s rom hfits => ⟨by rw [State.hardReset_of_fits s hfits], fun a ha => ?font, fun a hlo hhi => ?gap,
    fun j hj => ?rom, fun a hlo _ => ?tail, State.hardReset_unchangedBut s hfits⟩
  case font =>
    have hbelow : a < programBase := ha.trans (by decide)
    rw [State.hardReset_peek_below s hfits hbelow, resetImage_of_lt _ ha]
  case gap =>
    rw [State.hardReset_peek_below s hfits hhi, resetImage_of_le _ hlo]
  case rom =>
    exact (State.hardReset_peek_at s hfits j).trans (List.getD_eq_getElem _ _ hj)
  case tail =>
    obtain ⟨j, rfl⟩ := Nat.exists_eq_add_of_le ((Nat.le_add_right _ _).trans hlo)
    have hend : rom.length ≤ j := Nat.le_of_add_le_add_left hlo
    exact (State.hardReset_peek_at s hfits j).trans (List.getD_eq_default _ _ hend)

/-- Settles O14: the reset state is its own SOFT_RESET, and its M, with no cell listed, is canonical. -/
theorem resetMeetsInvariant : Obligations.ResetMeetsInvariant := State.softReset_inv (s := State.reset) rfl

/-- Settles O51: part by part; the display is blank, and the part M is not written. -/
theorem softResetClears : Obligations.SoftResetClears :=
  fun s => ⟨rfl, fun y _ x _ => Display.pixel_blank y x, fun k _ => s.softReset_key k, s.softReset_getV, s.softReset_pc,
    s.softReset_i, s.softReset_dt, s.softReset_st, s.softReset_stack, s.softReset_rs, rfl, s.softReset_peek⟩

/-- Settles O53: the length is checked before anything is written. -/
theorem hardResetRejectsLongRom : Obligations.HardResetRejectsLongRom :=
  fun s _ hlong => State.hardReset_of_too_long s hlong

/-- Settles O54: a second reset writes the same values, as the ROM's cells depend on FONT alone, and a ROM too large is
refused twice; TICK, SET_KEYS and SOFT_RESET do not write M. -/
theorem resetsAreIdempotent : Obligations.ResetsAreIdempotent := by
  refine fun s => ⟨rfl, fun rom => ?twice, fun op t h hhard hstep a => ?writers⟩
  case twice =>
    rcases le_or_gt rom.length maxRom with hfits | hlong
    · rw [State.hardReset_of_fits s hfits, State.hardReset_of_fits _ hfits]
      rfl
    · rw [State.hardReset_of_too_long s hlong]
      exact State.hardReset_of_too_long s hlong
  case writers =>
    obtain ⟨rand, hop, -⟩ | ⟨d, q, k, rfl⟩ | ⟨-, rfl⟩ | ⟨rom, hop, -⟩ := apply_cases h
    · exact absurd hop (hstep rand)
    · rfl
    · exact s.softReset_peek a
    · exact absurd hop (hhard rom)

/-- Settles O55: with no ROM no cell is listed, and SOFT_RESET gives the other parts; M and the parameters agree because
the parameters are the default ones. -/
theorem resetIsEmptyHardReset : Obligations.ResetIsEmptyHardReset := by
  refine fun s hcfg => ⟨rfl, fun p hp => ?_⟩
  cases p with
  | stepResult | randIn | draws => simp at hp
  | v => exact fun _ => rfl
  | mem => exact State.peek_congr rfl hcfg
  | cfg => exact hcfg
  | _ => rfl

end Sys2Proof.Machine
end
